-- ==== Sys2Proof/Word.lean ====
section
/-! DEFINITION. The words of the machine. The block has no machine word of its own: packet bytes are
8 bits, table fields, ring indices and register views 16 bits, the overrun counter and the baud rate 32 bits. -/

namespace Sys2Proof

/-- One byte of a packet, of packet memory or of a ring store (spec/20_memory.md R70). -/
abbrev Byte := BitVec 8

/-- A 16-bit quantity: packet-memory addresses, table fields, ring indices, SETUP fields, the status word. -/
abbrev Half := BitVec 16

/-- A 32-bit quantity: `overrunCount` and `lineCoding.baudRate` (spec/10_state.md R39, R47). -/
abbrev Word32 := BitVec 32

end Sys2Proof
end

