-- ==== Sys2Proof/Config.lean ====
section
/-! DEFINITION. What an implementation fixes: the constants of spec/00_scope.md R7, the parameters of R8
(a record that the machine carries and never writes), and the free values the spec leaves unspecified
(opaque constants: no proof can see what they are). -/

namespace Sys2Proof

/-- `MAX_PACKET`: "the endpoint's maximum packet size (64 bytes)", both endpoints (spec/00_scope.md R7). -/
def Config.maxPacket : Nat := 64

/-- `SETUP_LEN` (spec/00_scope.md R7). -/
def Config.setupLen : Nat := 8

/-- `LINE_CODING_LEN` (spec/00_scope.md R7). -/
def Config.lineCodingLen : Nat := 7

/-- FREE VALUE (log 5, safe): the byte at a packet-memory address that no rule has written since power-on
(spec/10_state.md R50 "unspecified", spec/93_implementation_defined.md U1). -/
opaque Config.pmaPowerOn : Nat → Byte

/-- FREE VALUE (log 6, safe): the byte in a slot of the RX ring store that no rule has stored to (U2). -/
opaque Config.rxRingPowerOn : Nat → Byte

/-- FREE VALUE (log 6, safe): the byte in a slot of the TX ring store that no rule has stored to (U2). -/
opaque Config.txRingPowerOn : Nat → Byte

/-- FREE VALUE (log 7, safe): the n-th free draw of the byte that an odd-length `PmaWrite` leaves
unspecified (spec/20_memory.md R74, U3). -/
opaque Config.freeByte : Nat → Byte

/-- FREE VALUE (log 19, safe): byte i of the device descriptor `Desc(1, 0)` in the default parameters; the
spec gives its length, 18, and no byte (spec/00_scope.md R8, spec/91_not_in_source.md N3). -/
opaque Config.deviceDescriptorByte : Nat → Byte

/-- OPEN (log 21): `BDT_BASE`, an "externally supplied" address (spec/00_scope.md R8, D35). -/
opaque Config.bdtBase : Nat

/-- OPEN (log 21): `EPR_BASE` (spec/00_scope.md R8, spec/10_state.md R32). -/
opaque Config.eprBase : Nat

/-- OPEN (log 21): `ISTAT_ADDR` (spec/00_scope.md R8, spec/10_state.md R41). -/
opaque Config.istatAddr : Nat

/-- OPEN (log 21): `DADDR_ADDR` (spec/00_scope.md R8, spec/60_exceptions.md R314). -/
opaque Config.daddrAddr : Nat

/-- `lineCoding`: "{baudRate, stopBits, parity, dataBits}", 32, 8, 8, 8 bits (spec/10_state.md R39). -/
structure LineCoding where
  baudRate : Word32
  stopBits : Byte
  parity : Byte
  dataBits : Byte
  deriving DecidableEq, Repr

/-- One entry of the descriptor set: the bytes served for a (type, index) pair (spec/00_scope.md R6, R8). -/
structure DescriptorEntry where
  type : Byte
  index : Byte
  bytes : List Byte
  deriving DecidableEq, Repr

/-- The buffer placement `INIT` gives to `BDT.CONFIGURE` for one endpoint (spec/00_scope.md R8 `LAYOUT`). -/
structure EndpointLayout where
  tx : Half
  rx : Half
  rxMaxSize : Half
  deriving DecidableEq, Repr

/-- The parameters of spec/00_scope.md R8 that some rule reads. They are "parameters of the step relation",
not state (spec/10_state.md R20): `State` carries them and no step writes them (log 1). -/
structure Params where
  /-- `PMA_SIZE` -/
  pmaSize : Nat
  /-- `BDT_FOOTPRINT` -/
  bdtFootprint : Nat
  /-- `LAYOUT.ep0` -/
  layout0 : EndpointLayout
  /-- `LAYOUT.ep1` -/
  layout1 : EndpointLayout
  /-- `RX_CAP` -/
  rxCap : Nat
  /-- `TX_CAP` -/
  txCap : Nat
  /-- `Desc`: the finite list of the pairs that have a descriptor; every other pair is `none` -/
  desc : List DescriptorEntry
  /-- `CONFIG_VALUE` -/
  configValue : Byte
  /-- `LINE_CODING_RESET` -/
  lineCodingReset : LineCoding
  /-- `TX_ZLP` -/
  txZlp : Bool
  deriving DecidableEq, Repr

/-- `Desc(type, index)`: none, or the descriptor's bytes (spec/00_scope.md R8). -/
def Params.descriptor (p : Params) (type index : Byte) : Option (List Byte) :=
  (p.desc.find? fun d => d.type == type && d.index == index).map (·.bytes)

/-- A ring capacity the spec admits: "power of two, 1 to 32768" (spec/00_scope.md R8). -/
def Params.capOk (cap : Nat) : Bool :=
  (List.range 16).any fun k => cap == 2 ^ k

/-- The constraints of spec/00_scope.md R8 on the parameters, all but those on `LAYOUT`, which `INIT` checks. -/
def Params.wf (p : Params) : Bool :=
  p.pmaSize % 2 == 0 && p.bdtFootprint % 2 == 0 && decide (p.bdtFootprint + 256 ≤ p.pmaSize)
    && decide (p.pmaSize ≤ 65536)
    && Params.capOk p.rxCap && Params.capOk p.txCap
    && p.desc.all (fun d => decide (1 ≤ d.bytes.length) && decide (d.bytes.length ≤ 65535))
    && (p.descriptor 1 0).map List.length == some 18
    && p.configValue != 0

/-- The defaults of spec/00_scope.md R8. The spec fixes `Desc` only by "`Desc(1, 0)` is 18 bytes": the default
set holds that entry alone, its bytes free values (DESIGN CHOICE, log 19). -/
def Params.default : Params where
  pmaSize := 1024
  bdtFootprint := 16
  layout0 := ⟨0x0040, 0x0080, 64⟩
  layout1 := ⟨0x00C0, 0x0100, 64⟩
  rxCap := 256
  txCap := 256
  desc := [⟨1, 0, (List.range 18).map Config.deviceDescriptorByte⟩]
  configValue := 1
  lineCodingReset := ⟨115200, 0, 0, 8⟩
  txZlp := false

end Sys2Proof
end

