-- ==== Sys2Proof/Syntax.lean ====
section
/-! DEFINITION. The operations of the block, one constructor for each of the 43 rows of
spec/opcode_table.json, with typed operands (spec/30_encoding.md R100 to R110). -/

namespace Sys2Proof

/-- An endpoint number: "endpoints 0 and 1 only" (spec/00_scope.md R7). -/
inductive Ep where
  | ep0 | ep1
  deriving DecidableEq, Repr

/-- A direction: `tx` (IN) is device to host, `rx` (OUT) host to device (spec/00_scope.md R12). -/
inductive Dir where
  | tx | rx
  deriving DecidableEq, Repr

/-- `EP[e].type` (spec/10_state.md R27). -/
inductive EpType where
  | control | bulk
  deriving DecidableEq, Repr

/-- A status of one direction of an endpoint (spec/10_state.md R29). -/
inductive Status where
  | disabled | stall | nak | valid
  deriving DecidableEq, Repr

/-- Which of the eight request rules a SETUP packet selects (spec/30_encoding.md R104). -/
inductive RequestKind where
  | getStatus | setAddress | getDescriptor | setConfiguration
  | setLineCoding | getLineCoding | setControlLineState | unsupported
  deriving DecidableEq, Repr

/-- An operation of the block. The `REQ.*` rows carry the fields of their SETUP packet that the row's own
code does not fix; `DISPATCH` carries the event descriptor, the 16-bit ISTAT word it was read with. -/
inductive Instr where
  | init
  | bdtConfigure (ep : Ep) (txOffset rxOffset rxMaxSize : Half)
  | bdtSetTxCount (ep : Ep) (n : Half)
  | bdtReadRxCount (ep : Ep)
  | epConfigure (ep : Ep) (type : EpType) (txInit rxInit : Status)
  | epSetStatus (ep : Ep) (dir : Dir) (status : Status)
  | epToggle (ep : Ep) (dir : Dir)
  | brWrite (bytes : List Byte)
  | brRead (m : Nat)
  | brAvail
  | brSpace
  | brOverrun
  | brKick
  | dispatch (event : Half)
  | evReset
  | evSuspend
  | evWakeup
  | evEp0In
  | evEp0Setup
  | evEp0Out
  | evEp1Out
  | evEp1In
  | evKick
  | busSetup (addr : BitVec 7) (endp : BitVec 4) (data : List Byte)
  | busOut (addr : BitVec 7) (endp : BitVec 4) (tog : Bool) (data : List Byte)
  | busIn (addr : BitVec 7) (endp : BitVec 4) (hostAck : Bool)
  | busReset
  | busSuspend
  | busWakeup
  | reqGetStatus (value index length : Half)
  | reqSetAddress (value index length : Half)
  | reqGetDescriptor (value index length : Half)
  | reqSetConfiguration (value index length : Half)
  | reqSetLineCoding (value index length : Half)
  | reqGetLineCoding (value index length : Half)
  | reqSetControlLineState (value index length : Half)
  | reqUnsupported (requestType request : Byte) (value index length : Half)
  | ctrlSetup
  | ctrlInDone
  | ctrlOutDone
  | bulkOutDone
  | bulkInDone
  | bulkKick
  deriving DecidableEq, Repr

/-- The interfaces on which an encoded operation arrives (spec/30_encoding.md R100). The table's format H,
the bodies of handlers, has no encoding and is not here (log 16). -/
inductive Format where
  | P | C | A | E | B | S
  deriving DecidableEq, Repr

end Sys2Proof
end

