-- ==== Sys2Proof/Decode.lean ====
section
/-! DEFINITION. From bytes to an operation or a refusal by name, and back (spec/30_encoding.md).
Format S (the SETUP packet, R102, R104) and format E (the ISTAT word, R107) are the spec's wire layouts.
Formats P, C, A, B are an operation byte of R108 to R110 followed by typed operands; the spec leaves how an
operand is laid out in bytes open ("a typed value, not packed bits", R101), and log 9 fixes it: one byte for
each operand of at most 8 bits, two bytes little-endian for a 16-bit operand, a number that no rule bounds in as
many bytes as it needs, a byte string after its length. -/

namespace Sys2Proof

/-! ## Byte order (spec/20_memory.md R72, spec/00_scope.md R9): little-endian -/

/-- The `n` low bytes of `w`, least significant first. -/
def leBytes : Nat → Nat → List Byte
  | 0, _ => []
  | n + 1, w => BitVec.ofNat 8 (w % 256) :: leBytes n (w / 256)

/-- Byte `i` of a byte string; 0 where the string is shorter (no rule reads there). -/
def byteAt (p : List Byte) (i : Nat) : Byte := p.getD i 0

/-- `le16(s, i)` of spec/00_scope.md R9. -/
def le16 (p : List Byte) (i : Nat) : Half := byteAt p (i + 1) ++ byteAt p i

/-- `le32(s, i)` of spec/00_scope.md R9. -/
def le32 (p : List Byte) (i : Nat) : Word32 := le16 p (i + 2) ++ le16 p i

/-- `bytes_le16(v)` of spec/00_scope.md R9. -/
def bytesLe16 (v : Half) : List Byte := [v.extractLsb' 0 8, v.extractLsb' 8 8]

/-- `bytes_le32(v)` of spec/00_scope.md R9. -/
def bytesLe32 (v : Word32) : List Byte :=
  [v.extractLsb' 0 8, v.extractLsb' 8 8, v.extractLsb' 16 8, v.extractLsb' 24 8]

/-! ## Operand codes (spec/30_encoding.md R109) -/

/-- The endpoint number: the operand value and the constant field `EP[e].number` (spec/10_state.md R27). -/
def Ep.number : Ep → Byte
  | .ep0 => 0
  | .ep1 => 1

/-- "`dir` in {tx = 0, rx = 1}". -/
def Dir.code : Dir → Byte
  | .tx => 0
  | .rx => 1

/-- "`type` in {Control = 0, Bulk = 1}". -/
def EpType.code : EpType → Byte
  | .control => 0
  | .bulk => 1

/-- "Disabled = 0, Stall = 1, Nak = 2, Valid = 3" (also spec/10_state.md R29). -/
def Status.code : Status → Byte
  | .disabled => 0
  | .stall => 1
  | .nak => 2
  | .valid => 3

/-- One bit as an operand byte. -/
def boolCode (b : Bool) : Byte := if b then 1 else 0

/-! ## Request selection and event selection -/

/-- spec/30_encoding.md R104: the pair (`requestType`, `request`), all 16 bits compared. -/
def selectRequest (requestType request : Byte) : RequestKind :=
  if requestType = 0x80 ∧ request = 0x00 then .getStatus
  else if requestType = 0x00 ∧ request = 0x05 then .setAddress
  else if requestType = 0x80 ∧ request = 0x06 then .getDescriptor
  else if requestType = 0x00 ∧ request = 0x09 then .setConfiguration
  else if requestType = 0x21 ∧ request = 0x20 then .setLineCoding
  else if requestType = 0xA1 ∧ request = 0x21 then .getLineCoding
  else if requestType = 0x21 ∧ request = 0x22 then .setControlLineState
  else .unsupported

/-- The operation that a request kind and the packet's fields stand for. -/
def requestInstr (k : RequestKind) (requestType request : Byte) (value index length : Half) : Instr :=
  match k with
  | .getStatus => .reqGetStatus value index length
  | .setAddress => .reqSetAddress value index length
  | .getDescriptor => .reqGetDescriptor value index length
  | .setConfiguration => .reqSetConfiguration value index length
  | .setLineCoding => .reqSetLineCoding value index length
  | .getLineCoding => .reqGetLineCoding value index length
  | .setControlLineState => .reqSetControlLineState value index length
  | .unsupported => .reqUnsupported requestType request value index length

/-- The bits of the ISTAT word that hold flags: the mask of the table's DISPATCH row. -/
def eventMask : Half := 0x073F

/-- The handler a word with exactly one event selects (spec/30_encoding.md R107). -/
def singleEvent (w : Half) : Option Instr :=
  if w = 0x0100 then some .evReset
  else if w = 0x0200 then some .evSuspend
  else if w = 0x0400 then some .evWakeup
  else if w = 0x0002 then some .evEp0In
  else if w = 0x0011 then some .evEp0Setup
  else if w = 0x0001 then some .evEp0Out
  else if w = 0x0004 then some .evEp1Out
  else if w = 0x0008 then some .evEp1In
  else if w = 0x0020 then some .evKick
  else none

/-- An ISTAT word that can occur: some flag, none of the bits that always read 0, and not `setup` alone
(spec/30_encoding.md R107, R112; spec/93_implementation_defined.md F8). -/
def eventWordOk (w : Half) : Bool := w &&& ~~~ eventMask == 0 && w != 0 && w != 0x0010

/-! ## Decoding -/

/-- Why a word is refused at decode (spec/93_implementation_defined.md F6, F8). -/
inductive DecodeError where
  /-- the bytes end before the operation does (safe) -/
  | truncated
  /-- bytes are left over after the operation (safe) -/
  | trailingBytes
  /-- "an operation byte not in the tables ... names no operation" (spec/30_encoding.md R112; safe) -/
  | unknownOperation
  /-- "Operand values outside the stated types ... are not expressible" (R112; safe) -/
  | badOperand
  /-- a reserved ISTAT bit, no flag at all, or `setup` alone (R107, R112, F8; safe) -/
  | reservedEventWord
  deriving DecidableEq, Repr

/-- What a reader of a byte string answers: a value and the bytes left over, or a refusal by name. -/
abbrev Decoded (α : Type) := Except DecodeError (α × List Byte)

/-- Read a value, then go on with it and the bytes left over. -/
def andRead {α β : Type} (r : Decoded α) (f : α → List Byte → Decoded β) : Decoded β :=
  match r with
  | .ok (a, bs) => f a bs
  | .error e => .error e

/-- One byte. -/
def readByte : List Byte → Decoded Byte
  | [] => .error .truncated
  | b :: bs => .ok (b, bs)

/-- A 16-bit operand, little-endian (log 9). -/
def readHalf : List Byte → Decoded Half
  | b0 :: b1 :: bs => .ok (b1 ++ b0, bs)
  | _ => .error .truncated

/-- A number of any size (log 9): a byte 255 counts 255 and the number goes on, any other byte ends it. -/
def readNumber : List Byte → Decoded Nat
  | [] => .error .truncated
  | b :: bs =>
    if b = 0xFF then andRead (readNumber bs) fun n bs => .ok (n + 255, bs) else .ok (b.toNat, bs)

/-- An endpoint operand. -/
def readEp : List Byte → Decoded Ep
  | [] => .error .truncated
  | b :: bs => if b = 0 then .ok (.ep0, bs) else if b = 1 then .ok (.ep1, bs) else .error .badOperand

/-- A direction operand. -/
def readDir : List Byte → Decoded Dir
  | [] => .error .truncated
  | b :: bs => if b = 0 then .ok (.tx, bs) else if b = 1 then .ok (.rx, bs) else .error .badOperand

/-- An endpoint-type operand. -/
def readEpType : List Byte → Decoded EpType
  | [] => .error .truncated
  | b :: bs =>
    if b = 0 then .ok (.control, bs) else if b = 1 then .ok (.bulk, bs) else .error .badOperand

/-- A status operand. -/
def readStatus : List Byte → Decoded Status
  | [] => .error .truncated
  | b :: bs =>
    if b = 0 then .ok (.disabled, bs)
    else if b = 1 then .ok (.stall, bs)
    else if b = 2 then .ok (.nak, bs)
    else if b = 3 then .ok (.valid, bs)
    else .error .badOperand

/-- A one-bit operand. -/
def readBool : List Byte → Decoded Bool
  | [] => .error .truncated
  | b :: bs => if b = 0 then .ok (false, bs) else if b = 1 then .ok (true, bs) else .error .badOperand

/-- `addr` : 7 bits. -/
def readAddr : List Byte → Decoded (BitVec 7)
  | [] => .error .truncated
  | b :: bs => if b.toNat < 128 then .ok (BitVec.ofNat 7 b.toNat, bs) else .error .badOperand

/-- `endp` : 4 bits. -/
def readEndp : List Byte → Decoded (BitVec 4)
  | [] => .error .truncated
  | b :: bs => if b.toNat < 16 then .ok (BitVec.ofNat 4 b.toNat, bs) else .error .badOperand

/-- `n` bytes. -/
def readBytes (n : Nat) (bs : List Byte) : Decoded (List Byte) :=
  if bs.length < n then .error .truncated else .ok (bs.take n, bs.drop n)

/-- A byte string of any length: its length, then its bytes (log 9). "`bytes`, a byte string of any length L >= 0"
(spec/45_bridge.md R243); a bus transaction comes "with any operands" (spec/46_bus_link.md R277). -/
def readString (bs : List Byte) : Decoded (List Byte) :=
  andRead (readNumber bs) fun n bs =>
  readBytes n bs

/-- Format P (spec/30_encoding.md R110). -/
def decodeP (bs : List Byte) : Decoded Instr :=
  andRead (readByte bs) fun op bs =>
  if op = 0x00 then .ok (.init, bs) else .error .unknownOperation

/-- Format C, the register-model commands (R109). -/
def decodeC (bs : List Byte) : Decoded Instr :=
  andRead (readByte bs) fun op bs =>
  if op = 0x10 then
    andRead (readEp bs) fun ep bs =>
    andRead (readHalf bs) fun tx bs =>
    andRead (readHalf bs) fun rx bs =>
    andRead (readHalf bs) fun m bs =>
    .ok (.bdtConfigure ep tx rx m, bs)
  else if op = 0x11 then
    andRead (readEp bs) fun ep bs =>
    andRead (readHalf bs) fun n bs =>
    .ok (.bdtSetTxCount ep n, bs)
  else if op = 0x12 then
    andRead (readEp bs) fun ep bs =>
    .ok (.bdtReadRxCount ep, bs)
  else if op = 0x20 then
    andRead (readEp bs) fun ep bs =>
    andRead (readEpType bs) fun ty bs =>
    andRead (readStatus bs) fun tx bs =>
    andRead (readStatus bs) fun rx bs =>
    .ok (.epConfigure ep ty tx rx, bs)
  else if op = 0x21 then
    andRead (readEp bs) fun ep bs =>
    andRead (readDir bs) fun d bs =>
    andRead (readStatus bs) fun st bs =>
    .ok (.epSetStatus ep d st, bs)
  else if op = 0x22 then
    andRead (readEp bs) fun ep bs =>
    andRead (readDir bs) fun d bs =>
    .ok (.epToggle ep d, bs)
  else .error .unknownOperation

/-- Format A, the bridge operations (R110). -/
def decodeA (bs : List Byte) : Decoded Instr :=
  andRead (readByte bs) fun op bs =>
  if op = 0x30 then
    andRead (readString bs) fun data bs =>
    .ok (.brWrite data, bs)
  else if op = 0x31 then
    andRead (readNumber bs) fun m bs =>
    .ok (.brRead m, bs)
  else if op = 0x32 then .ok (.brAvail, bs)
  else if op = 0x33 then .ok (.brSpace, bs)
  else if op = 0x34 then .ok (.brOverrun, bs)
  else if op = 0x35 then .ok (.brKick, bs)
  else .error .unknownOperation

/-- Format B, the bus transactions (R108). -/
def decodeB (bs : List Byte) : Decoded Instr :=
  andRead (readByte bs) fun op bs =>
  if op = 0x5D then
    andRead (readAddr bs) fun addr bs =>
    andRead (readEndp bs) fun endp bs =>
    andRead (readString bs) fun data bs =>
    .ok (.busSetup addr endp data, bs)
  else if op = 0x51 then
    andRead (readAddr bs) fun addr bs =>
    andRead (readEndp bs) fun endp bs =>
    andRead (readBool bs) fun tog bs =>
    andRead (readString bs) fun data bs =>
    .ok (.busOut addr endp tog data, bs)
  else if op = 0x59 then
    andRead (readAddr bs) fun addr bs =>
    andRead (readEndp bs) fun endp bs =>
    andRead (readBool bs) fun ack bs =>
    .ok (.busIn addr endp ack, bs)
  else if op = 0x60 then .ok (.busReset, bs)
  else if op = 0x61 then .ok (.busSuspend, bs)
  else if op = 0x62 then .ok (.busWakeup, bs)
  else .error .unknownOperation

/-- Format E, the event descriptor (R107): a word with one event is that event's handler; any other word
that can occur is a whole-word `DISPATCH`, whose handlers run in priority order (log 11). -/
def decodeEventWord (w : Half) : Except DecodeError Instr :=
  if eventWordOk w then
    match singleEvent w with
    | some i => .ok i
    | none => .ok (.dispatch w)
  else .error .reservedEventWord

/-- Format E from bytes: the 16-bit word, little-endian. -/
def decodeE (bs : List Byte) : Decoded Instr :=
  andRead (readHalf bs) fun w bs =>
  match decodeEventWord w with
  | .ok i => .ok (i, bs)
  | .error e => .error e

/-- Format S, the 8-byte SETUP packet (R102, R104). -/
def decodeS (bs : List Byte) : Decoded Instr :=
  andRead (readByte bs) fun requestType bs =>
  andRead (readByte bs) fun request bs =>
  andRead (readHalf bs) fun value bs =>
  andRead (readHalf bs) fun index bs =>
  andRead (readHalf bs) fun length bs =>
  .ok (requestInstr (selectRequest requestType request) requestType request value index length, bs)

/-- Decode one operation of a format from the front of a byte string. -/
def decode : Format → List Byte → Decoded Instr
  | .P => decodeP
  | .C => decodeC
  | .A => decodeA
  | .B => decodeB
  | .E => decodeE
  | .S => decodeS

/-- Decode a byte string that is exactly one operation. -/
def decodeExact (f : Format) (bs : List Byte) : Except DecodeError Instr :=
  match decode f bs with
  | .ok (i, []) => .ok i
  | .ok (_, _ :: _) => .error .trailingBytes
  | .error e => .error e

/-! ## Encoding -/

/-- The bytes of a number of any size. -/
def numberBytes (n : Nat) : List Byte := List.replicate (n / 255) 0xFF ++ [BitVec.ofNat 8 (n % 255)]

/-- A byte string after its length. -/
def stringBytes (data : List Byte) : List Byte := numberBytes data.length ++ data

/-- The 8 bytes of a SETUP packet (R102). -/
def setupBytes (requestType request : Byte) (value index length : Half) : List Byte :=
  [requestType, request] ++ bytesLe16 value ++ bytesLe16 index ++ bytesLe16 length

/-- The word of an operation and the interface it arrives on; none for the bodies of handlers, which have
"none of its own" (spec/opcode_table.json, format H; log 16). -/
def encode : Instr → Option (Format × List Byte)
  | .init => some (.P, [0x00])
  | .bdtConfigure ep tx rx m =>
    some (.C, [0x10, ep.number] ++ bytesLe16 tx ++ bytesLe16 rx ++ bytesLe16 m)
  | .bdtSetTxCount ep n => some (.C, [0x11, ep.number] ++ bytesLe16 n)
  | .bdtReadRxCount ep => some (.C, [0x12, ep.number])
  | .epConfigure ep ty tx rx => some (.C, [0x20, ep.number, ty.code, tx.code, rx.code])
  | .epSetStatus ep d st => some (.C, [0x21, ep.number, d.code, st.code])
  | .epToggle ep d => some (.C, [0x22, ep.number, d.code])
  | .brWrite data => some (.A, 0x30 :: stringBytes data)
  | .brRead m => some (.A, 0x31 :: numberBytes m)
  | .brAvail => some (.A, [0x32])
  | .brSpace => some (.A, [0x33])
  | .brOverrun => some (.A, [0x34])
  | .brKick => some (.A, [0x35])
  | .dispatch w => some (.E, bytesLe16 w)
  | .evReset => some (.E, bytesLe16 0x0100)
  | .evSuspend => some (.E, bytesLe16 0x0200)
  | .evWakeup => some (.E, bytesLe16 0x0400)
  | .evEp0In => some (.E, bytesLe16 0x0002)
  | .evEp0Setup => some (.E, bytesLe16 0x0011)
  | .evEp0Out => some (.E, bytesLe16 0x0001)
  | .evEp1Out => some (.E, bytesLe16 0x0004)
  | .evEp1In => some (.E, bytesLe16 0x0008)
  | .evKick => some (.E, bytesLe16 0x0020)
  | .busSetup addr endp data =>
    some (.B, [0x5D, addr.setWidth 8, endp.setWidth 8] ++ stringBytes data)
  | .busOut addr endp tog data =>
    some (.B, [0x51, addr.setWidth 8, endp.setWidth 8, boolCode tog] ++ stringBytes data)
  | .busIn addr endp ack => some (.B, [0x59, addr.setWidth 8, endp.setWidth 8, boolCode ack])
  | .busReset => some (.B, [0x60])
  | .busSuspend => some (.B, [0x61])
  | .busWakeup => some (.B, [0x62])
  | .reqGetStatus v i l => some (.S, setupBytes 0x80 0x00 v i l)
  | .reqSetAddress v i l => some (.S, setupBytes 0x00 0x05 v i l)
  | .reqGetDescriptor v i l => some (.S, setupBytes 0x80 0x06 v i l)
  | .reqSetConfiguration v i l => some (.S, setupBytes 0x00 0x09 v i l)
  | .reqSetLineCoding v i l => some (.S, setupBytes 0x21 0x20 v i l)
  | .reqGetLineCoding v i l => some (.S, setupBytes 0xA1 0x21 v i l)
  | .reqSetControlLineState v i l => some (.S, setupBytes 0x21 0x22 v i l)
  | .reqUnsupported rt rq v i l => some (.S, setupBytes rt rq v i l)
  | .ctrlSetup => none
  | .ctrlInDone => none
  | .ctrlOutDone => none
  | .bulkOutDone => none
  | .bulkInDone => none
  | .bulkKick => none

/-! ## Words as spec/opcode_table.json numbers them -/

/-- The bytes of an `nbits`-wide table word, the first at bits 7:0, and zero operand bytes after them. -/
def tableBytes (nbits w : Nat) : List Byte := leBytes ((nbits + 7) / 8) w ++ List.replicate 16 0

/-- The format whose operation bytes (spec/30_encoding.md R108 to R110) hold `op`. -/
def opByteFormat (op : Byte) : Option Format :=
  if op = 0x00 then some .P
  else if op ∈ [0x10, 0x11, 0x12, 0x20, 0x21, 0x22] then some .C
  else if op ∈ [0x30, 0x31, 0x32, 0x33, 0x34, 0x35] then some .A
  else if op ∈ [0x5D, 0x51, 0x59, 0x60, 0x61, 0x62] then some .B
  else none

/-- Which interface a table word belongs to. The table gives the formats no common numbering, so the width
decides (log 10): 16 bits is a request code of format S where R104 lists it, else an ISTAT word of format E
where it can occur, else a SETUP packet; 64 bits is a SETUP packet; any other width is an operation byte
and its operands, or an 8-bit ISTAT word where no operation has that byte. -/
def tableFormat (nbits w : Nat) : Format :=
  let low : Half := BitVec.ofNat 16 w
  if nbits = 64 then .S
  else if nbits = 16 then
    if selectRequest (low.extractLsb' 0 8) (low.extractLsb' 8 8) ≠ .unsupported then .S
    else if eventWordOk low then .E
    else .S
  else
    match opByteFormat (BitVec.ofNat 8 w) with
    | some f => f
    | none => .E

/-- The operation the decoder reads from a word of spec/opcode_table.json. -/
def decodeTableWord (nbits w : Nat) : Option Instr :=
  match decode (tableFormat nbits w) (tableBytes nbits w) with
  | .ok (i, _) => some i
  | .error _ => none

end Sys2Proof
end

