-- ==== Sys2Proof/Machine/State.lean ====
section
/-! DEFINITION. The state of the block as plain data: every field of spec/10_state.md, the three memories of
spec/20_memory.md R70, and the model's own fields (the parameters it carries, its lifecycle, the choices of
its environment still to come, the results of steps, the count of free draws). -/

namespace Sys2Proof.Machine

/-! ## Why a step stops -/

/-- The machine stops with a fault. Every other error of the block is resolved in place (spec/60_exceptions.md R300). -/
inductive Fault where
  /-- Raised by `step` when `fatal` is true and nothing is left to do: "A model should treat a run with `fatal` =
  true as a faulted run, not as a final state" (spec/70_reset_and_hazards.md R333; safe; log 17). -/
  | layoutFatal
  deriving DecidableEq, Repr

/-- The spec gives the step no meaning (spec/93_implementation_defined.md section 2). -/
inductive Refusal where
  /-- Raised by an arm of `exec` whose instruction has no meaning yet (safe). -/
  | notModelled (mnemonic : String)
  /-- Raised by `PmaRead` and `PmaWrite` outside their preconditions (spec/20_memory.md R73, R74; F1; safe). -/
  | pmaAccess
  /-- Raised by `BDT.SETTXCOUNT` and `BDT.READRXCOUNT` on an entry with `bdtConfigured` false (spec/40_bdt.md R134,
  R135; F2; safe). -/
  | entryNotConfigured
  /-- Raised by `BDT.SETTXCOUNT` with n > 64 (spec/40_bdt.md R134; F2; safe). -/
  | txCountTooLarge
  /-- Raised by `EP.SETSTATUS` and `EP.TOGGLE` on an endpoint with `configured` false (spec/41_endpoint.md R144; F3;
  safe). -/
  | endpointNotConfigured
  /-- Raised by `BDT.CONFIGURE` outside `INIT` (F4; safe). -/
  | configureOutsideInit
  /-- Raised by a bridge operation while another is in progress (spec/20_memory.md R88; F5; safe). -/
  | bridgeBusy
  /-- Raised by `step` on bytes that name no operation (spec/30_encoding.md R112; F6; safe). -/
  | undecodable (e : DecodeError)
  /-- Raised by `step` on any operation before `INIT` (spec/70_reset_and_hazards.md R331; F7; safe). -/
  | beforeInit
  /-- Raised by `INIT` when it has run (spec/70_reset_and_hazards.md R331 "exactly once"; F7; safe). -/
  | secondInit
  /-- Raised by `step` on an operation other than `BDT.CONFIGURE` inside `INIT`, which is one atomic step
  (spec/70_reset_and_hazards.md R331; safe). -/
  | insideInit
  /-- Raised by `DISPATCH` on a snapshot that has flags but no event, which cannot occur (F8; safe; log 22). -/
  | noEventSelected
  /-- Raised by a micro-step of `BR.WRITE` whose record asks for a byte the caller did not give, which cannot occur
  (spec/45_bridge.md R243: k is at most L; safe; log 23). -/
  | appOpInconsistent
  deriving DecidableEq, Repr

/-! ## The pieces of state -/

/-- Where the block is with respect to `INIT` (spec/70_reset_and_hazards.md R331; log 2). -/
inductive Lifecycle where
  /-- before `INIT` -/
  | off
  /-- inside `INIT`: the one place where `BDT.CONFIGURE` may run; never the value between two agent steps -/
  | initialising
  /-- `INIT` has run -/
  | running
  deriving DecidableEq, Repr

/-- `devState` (spec/10_state.md R23). -/
inductive DevState where
  | powered | default | addressed | configured | suspended
  deriving DecidableEq, Repr

/-- One byte memory: the bytes written so far, addresses strictly rising. An address that is not listed has no
written value; what it reads as is a free value of Config (log 5, 6, 8). -/
abbrev Memory := List Host.Cell

/-- `EP[e]` (spec/10_state.md R27 to R31); the constant field `number` is the index (log 26). -/
structure Endpoint where
  type : EpType
  txToggle : Bool
  rxToggle : Bool
  stalled : Bool
  txStat : Status
  rxStat : Status
  txStatReq : Option Status
  rxStatReq : Option Status
  configured : Bool
  deriving DecidableEq, Repr

/-- `BDT[e]` (spec/10_state.md R33). -/
structure BdtEntry where
  txOffset : Half
  txCount : Half
  rxOffset : Half
  rxMaxCount : Half
  rxCount : Half
  deriving DecidableEq, Repr

/-- `ct.direction` (spec/10_state.md R36). -/
inductive TransferDirection where
  | hostToDevice | deviceToHost
  deriving DecidableEq, Repr

/-- `ct.phase` (spec/10_state.md R36). -/
inductive Phase where
  | setup | dataStage | statusStage
  deriving DecidableEq, Repr

/-- `ct.stage`, the kind of data stage: in, out, none (spec/10_state.md R37). -/
inductive Stage where
  | dataIn | dataOut | noData
  deriving DecidableEq, Repr

/-- The transient object of a control transfer (spec/10_state.md R36, R37). -/
structure ControlTransfer where
  requestType : Byte
  request : Byte
  value : Half
  index : Half
  length : Half
  direction : TransferDirection
  phase : Phase
  stage : Stage
  data : List Byte
  pos : Nat
  lastLen : Nat
  deriving DecidableEq, Repr

/-- The nine flags of ISTAT (spec/10_state.md R40); its packed view is `Istat.pack`. -/
structure Istat where
  ctEp0Rx : Bool
  ctEp0Tx : Bool
  ctEp1Rx : Bool
  ctEp1Tx : Bool
  setup : Bool
  kick : Bool
  reset : Bool
  susp : Bool
  wkup : Bool
  deriving DecidableEq, Repr

/-- The eight events a handler step can handle, in the names of spec/44_dispatcher.md R222. -/
inductive Event where
  | reset | susp | wkup | ctEp0Tx | ctEp0Rx | ctEp1Rx | ctEp1Tx | kick
  deriving DecidableEq, Repr

/-- A ring buffer (spec/10_state.md R43). -/
structure Ring where
  buf : Memory
  head : Half
  tail : Half
  deriving DecidableEq, Repr

/-- Which bridge operation is in progress (spec/10_state.md R48). -/
inductive AppKind where
  | write | read
  deriving DecidableEq, Repr

/-- The record of a bridge operation in progress (spec/10_state.md R48): `bytes` is the caller's byte string of a
write, and what a read has loaded so far. -/
structure AppOp where
  kind : AppKind
  h : Half
  t : Half
  k : Nat
  i : Nat
  bytes : List Byte
  deriving DecidableEq, Repr

/-- The handshakes the link can answer (spec/30_encoding.md R108). -/
inductive Handshake where
  | ack | nak | stall
  deriving DecidableEq, Repr

/-- The result of a link step (spec/30_encoding.md R108; log 4). -/
inductive BusResponse where
  /-- no response -/
  | silent
  /-- a handshake -/
  | handshake (h : Handshake)
  /-- a data packet, and whether the host's ACK arrived (spec/46_bus_link.md R269) -/
  | packet (tog : Bool) (payload : List Byte) (acked : Bool)
  deriving DecidableEq, Repr

/-- The result of a bridge operation (spec/30_encoding.md R110; log 4). -/
inductive AppResult where
  /-- none has finished yet -/
  | nothing
  /-- `count_accepted` of `BR.WRITE` -/
  | accepted (count : Nat)
  /-- `count_filled` and the bytes of `BR.READ` -/
  | filled (count : Nat) (bytes : List Byte)
  /-- the number `BR.AVAIL`, `BR.SPACE` or `BR.OVERRUN` returns -/
  | number (n : Nat)
  deriving DecidableEq, Repr

/-- The result of `INIT`, `BDT.CONFIGURE` or `BDT.READRXCOUNT` (spec/30_encoding.md R109; log 4). -/
inductive CmdResult where
  | ok
  | layoutError
  | count (n : Half)
  deriving DecidableEq, Repr

/-- One choice of the environment or of the scheduler (spec/00_scope.md R11, spec/20_memory.md R87; log 3). -/
inductive Input where
  /-- an encoded operation arrives on the interface of a format -/
  | request (format : Format) (bytes : List Byte)
  /-- the dispatcher takes its next step -/
  | dispatcher
  /-- the application takes the next micro-step of its operation in progress -/
  | application
  deriving DecidableEq, Repr

/-- The state of the block. -/
structure State where
  /-- the parameters of spec/00_scope.md R8, never written (log 1) -/
  params : Params
  /-- the model's own (log 2) -/
  lifecycle : Lifecycle
  /-- the model's own: what the environment will do (log 3) -/
  inputs : List Input
  /-- spec/10_state.md R23 -/
  devState : DevState
  /-- spec/10_state.md R24 -/
  devAddr : BitVec 7
  /-- spec/10_state.md R25 -/
  pendingAddr : Option (BitVec 7)
  /-- spec/10_state.md R26 -/
  fatal : Bool
  /-- `EP[0]`, spec/10_state.md R27 -/
  ep0 : Endpoint
  /-- `EP[1]`, spec/10_state.md R27 -/
  ep1 : Endpoint
  /-- `BDT[0]`, spec/10_state.md R33 -/
  bdt0 : BdtEntry
  /-- `BDT[1]`, spec/10_state.md R33 -/
  bdt1 : BdtEntry
  /-- `bdtConfigured[0]`, spec/10_state.md R35 -/
  bdtConfigured0 : Bool
  /-- `bdtConfigured[1]`, spec/10_state.md R35 -/
  bdtConfigured1 : Bool
  /-- spec/10_state.md R36 -/
  ct : Option ControlTransfer
  /-- spec/10_state.md R39 -/
  lineCoding : LineCoding
  /-- `ISTAT`, spec/10_state.md R40 -/
  istat : Istat
  /-- spec/10_state.md R42 -/
  dispSnap : Option Istat
  /-- `RXRB`, spec/10_state.md R43 -/
  rxrb : Ring
  /-- `TXRB`, spec/10_state.md R43 -/
  txrb : Ring
  /-- spec/10_state.md R46 -/
  ep1TxBusy : Bool
  /-- spec/10_state.md R46 -/
  ep1TxLastLen : Nat
  /-- spec/10_state.md R47 -/
  overrunCount : Word32
  /-- spec/10_state.md R48 -/
  appOp : Option AppOp
  /-- `PMA`, spec/20_memory.md R70 -/
  pma : Memory
  /-- the model's own: free draws made so far (log 7) -/
  draws : Nat
  /-- the model's own: result of the last link step (log 4) -/
  busResp : BusResponse
  /-- the model's own: result of the last finished bridge operation (log 4) -/
  appResult : AppResult
  /-- the model's own: result of the last power-on or table command (log 4) -/
  cmdResult : CmdResult
  deriving DecidableEq, Repr

/-! ## The state after power-on -/

/-- An endpoint of the given type in column "po" of spec/10_state.md R50. -/
def Endpoint.powerOn (ty : EpType) : Endpoint where
  type := ty
  txToggle := false
  rxToggle := false
  stalled := false
  txStat := .disabled
  rxStat := .disabled
  txStatReq := none
  rxStatReq := none
  configured := false

/-- A table entry laid out by `LAYOUT`, counts 0 (spec/10_state.md R50). -/
def BdtEntry.ofLayout (l : EndpointLayout) : BdtEntry where
  txOffset := l.tx
  txCount := 0
  rxOffset := l.rx
  rxMaxCount := l.rxMaxSize
  rxCount := 0

/-- No flag set. -/
def Istat.empty : Istat := ⟨false, false, false, false, false, false, false, false, false⟩

/-- An empty ring; its store is unspecified (spec/10_state.md R50; log 6). -/
def Ring.empty : Ring := ⟨[], 0, 0⟩

/-- The machine right after reset: column "po" of spec/10_state.md R50, the state `INIT` leaves with the
default parameters (spec/70_reset_and_hazards.md R331; log 2). -/
def State.reset : State where
  params := Params.default
  lifecycle := .running
  inputs := []
  devState := .powered
  devAddr := 0
  pendingAddr := .none
  fatal := false
  ep0 := Endpoint.powerOn .control
  ep1 := Endpoint.powerOn .bulk
  bdt0 := BdtEntry.ofLayout Params.default.layout0
  bdt1 := BdtEntry.ofLayout Params.default.layout1
  bdtConfigured0 := true
  bdtConfigured1 := true
  ct := .none
  lineCoding := Params.default.lineCodingReset
  istat := Istat.empty
  dispSnap := .none
  rxrb := Ring.empty
  txrb := Ring.empty
  ep1TxBusy := false
  ep1TxLastLen := 0
  overrunCount := 0
  appOp := .none
  pma := []
  draws := 0
  busResp := .silent
  appResult := .nothing
  cmdResult := .ok

end Sys2Proof.Machine
end

