-- ==== Sys2Proof/Machine/Flags.lean ====
section
/-! DEFINITION. The flags of ISTAT: its packed view, the interrupt request, setting and clearing a flag, and which
event comes first (spec/10_state.md R40, R41; spec/44_dispatcher.md R222; spec/60_exceptions.md R305, R306). -/

namespace Sys2Proof.Machine

/-- Bit `i` of a packed view: `2^i` when the flag is set. -/
def flagBit (b : Bool) (i : Nat) : Half := if b then BitVec.ofNat 16 (2 ^ i) else 0

/-- The packed view of ISTAT, bits 7:6 and 15:11 zero (spec/10_state.md R41). -/
def Istat.pack (f : Istat) : Half :=
  flagBit f.ctEp0Rx 0 ||| flagBit f.ctEp0Tx 1 ||| flagBit f.ctEp1Rx 2 ||| flagBit f.ctEp1Tx 3
    ||| flagBit f.setup 4 ||| flagBit f.kick 5
    ||| flagBit f.reset 8 ||| flagBit f.susp 9 ||| flagBit f.wkup 10

/-- The flags of an ISTAT word; the bits that always read 0 carry nothing (spec/10_state.md R41). -/
def Istat.ofWord (w : Half) : Istat where
  ctEp0Rx := w.getLsbD 0
  ctEp0Tx := w.getLsbD 1
  ctEp1Rx := w.getLsbD 2
  ctEp1Tx := w.getLsbD 3
  setup := w.getLsbD 4
  kick := w.getLsbD 5
  reset := w.getLsbD 8
  susp := w.getLsbD 9
  wkup := w.getLsbD 10

/-- "The interrupt request line `irq` is the OR of the nine flags" (spec/10_state.md R41). -/
def Istat.irq (f : Istat) : Bool :=
  f.ctEp0Rx || f.ctEp0Tx || f.ctEp1Rx || f.ctEp1Tx || f.setup || f.kick || f.reset || f.susp || f.wkup

/-- The flag of an event is set. -/
def Istat.has (f : Istat) : Event → Bool
  | .reset => f.reset
  | .susp => f.susp
  | .wkup => f.wkup
  | .ctEp0Tx => f.ctEp0Tx
  | .ctEp0Rx => f.ctEp0Rx
  | .ctEp1Rx => f.ctEp1Rx
  | .ctEp1Tx => f.ctEp1Tx
  | .kick => f.kick

/-- Clear the flag of an event, "and, for ctEp0Rx, setup cleared too" (spec/44_dispatcher.md R222, R235). -/
def Istat.clear (f : Istat) : Event → Istat
  | .reset => { f with reset := false }
  | .susp => { f with susp := false }
  | .wkup => { f with wkup := false }
  | .ctEp0Tx => { f with ctEp0Tx := false }
  | .ctEp0Rx => { f with ctEp0Rx := false, setup := false }
  | .ctEp1Rx => { f with ctEp1Rx := false }
  | .ctEp1Tx => { f with ctEp1Tx := false }
  | .kick => { f with kick := false }

/-- The events in ascending priority number (spec/44_dispatcher.md R222). -/
def eventOrder : List Event :=
  [.reset, .susp, .wkup, .ctEp0Tx, .ctEp0Rx, .ctEp1Rx, .ctEp1Tx, .kick]

/-- "the event of lowest priority number among those whose flag is set" (spec/44_dispatcher.md R222). -/
def Istat.firstEvent (f : Istat) : Option Event := eventOrder.find? f.has

/-- The `ct` flag of an endpoint's received packet (spec/46_bus_link.md R266). -/
def Istat.setCtRx (f : Istat) : Ep → Istat
  | .ep0 => { f with ctEp0Rx := true }
  | .ep1 => { f with ctEp1Rx := true }

/-- The `ct` flag of an endpoint's sent packet (spec/46_bus_link.md R269). -/
def Istat.setCtTx (f : Istat) : Ep → Istat
  | .ep0 => { f with ctEp0Tx := true }
  | .ep1 => { f with ctEp1Tx := true }

/-- What the link's bus-reset step does to ISTAT: five flags cleared, `reset` set (spec/46_bus_link.md R272). -/
def Istat.onBusReset (f : Istat) : Istat :=
  { f with ctEp0Rx := false, ctEp0Tx := false, ctEp1Rx := false, ctEp1Tx := false,
           setup := false, reset := true }

end Sys2Proof.Machine
end

