-- ==== Sys2Proof/Machine/Operands.lean ====
section
/-! DEFINITION. What an operand names: an endpoint's record, its table entry, one direction of it; the fields of a
SETUP packet; the buffer regions of the table (spec/10_state.md R27 to R35, spec/30_encoding.md R102 to R106). -/

namespace Sys2Proof.Machine

/-! ## The two register files -/

/-- `EP[e]`. -/
def State.ep (s : State) : Ep → Endpoint
  | .ep0 => s.ep0
  | .ep1 => s.ep1

/-- Write `EP[e]`. -/
def State.setEp (s : State) (e : Ep) (x : Endpoint) : State :=
  match e with
  | .ep0 => { s with ep0 := x }
  | .ep1 => { s with ep1 := x }

/-- `BDT[e]`. -/
def State.bdt (s : State) : Ep → BdtEntry
  | .ep0 => s.bdt0
  | .ep1 => s.bdt1

/-- Write `BDT[e]`. -/
def State.setBdt (s : State) (e : Ep) (x : BdtEntry) : State :=
  match e with
  | .ep0 => { s with bdt0 := x }
  | .ep1 => { s with bdt1 := x }

/-- `bdtConfigured[e]`. -/
def State.bdtConfigured (s : State) : Ep → Bool
  | .ep0 => s.bdtConfigured0
  | .ep1 => s.bdtConfigured1

/-- Write `bdtConfigured[e]`. -/
def State.setBdtConfigured (s : State) (e : Ep) (b : Bool) : State :=
  match e with
  | .ep0 => { s with bdtConfigured0 := b }
  | .ep1 => { s with bdtConfigured1 := b }

/-- The other endpoint of the two. -/
def otherEp : Ep → Ep
  | .ep0 => .ep1
  | .ep1 => .ep0

/-- The endpoint a 4-bit endpoint number names: only 0 and 1 exist (spec/46_bus_link.md R262). -/
def endpOf (endp : BitVec 4) : Option Ep :=
  if endp = 0 then some .ep0 else if endp = 1 then some .ep1 else none

/-! ## One direction of an endpoint -/

/-- `dStat`. -/
def Endpoint.stat (x : Endpoint) : Dir → Status
  | .tx => x.txStat
  | .rx => x.rxStat

/-- Write `dStat`. -/
def Endpoint.setStat (x : Endpoint) (d : Dir) (st : Status) : Endpoint :=
  match d with
  | .tx => { x with txStat := st }
  | .rx => { x with rxStat := st }

/-- `dStatReq <- some st` (spec/41_endpoint.md R143). -/
def Endpoint.request (x : Endpoint) (d : Dir) (st : Status) : Endpoint :=
  match d with
  | .tx => { x with txStatReq := some st }
  | .rx => { x with rxStatReq := some st }

/-- The toggle bit of a direction. -/
def Endpoint.toggle (x : Endpoint) : Dir → Bool
  | .tx => x.txToggle
  | .rx => x.rxToggle

/-- Flip the toggle bit of a direction (spec/41_endpoint.md R146). -/
def Endpoint.flip (x : Endpoint) (d : Dir) : Endpoint :=
  match d with
  | .tx => { x with txToggle := !x.txToggle }
  | .rx => { x with rxToggle := !x.rxToggle }

/-- A pending request, or the status that stays when there is none. -/
def applied (req : Option Status) (st : Status) : Status :=
  match req with
  | some r => r
  | none => st

/-- Apply the pending requests of both directions (spec/46_bus_link.md R260). -/
def Endpoint.applyRequests (x : Endpoint) : Endpoint :=
  { x with
    txStat := applied x.txStatReq x.txStat
    rxStat := applied x.rxStatReq x.rxStat
    txStatReq := none
    rxStatReq := none }

/-! ## Buffer regions -/

/-- Two half-open byte regions `[a, a + n)` and `[b, b + m)` have no byte in common. -/
def disjoint (a n b m : Nat) : Bool :=
  decide (a + n ≤ b) || decide (b + m ≤ a) || decide (n = 0) || decide (m = 0)

/-- `LayoutOk(ep, txOffset, rxOffset, rxMaxSize)`, conditions (a) to (f) of spec/40_bdt.md R132. -/
def layoutOk (s : State) (e : Ep) (txOffset rxOffset rxMaxSize : Half) : Bool :=
  let tx := txOffset.toNat
  let rx := rxOffset.toNat
  let n := rxMaxSize.toNat
  let o := s.bdt (otherEp e)
  decide (tx % 2 = 0) && decide (rx % 2 = 0)
    && decide (s.params.bdtFootprint ≤ tx) && decide (s.params.bdtFootprint ≤ rx)
    && decide (1 ≤ n) && decide (n ≤ Config.maxPacket)
    && decide (tx + Config.maxPacket ≤ s.params.pmaSize) && decide (rx + n ≤ s.params.pmaSize)
    && disjoint tx Config.maxPacket rx n
    && (!s.bdtConfigured (otherEp e)
        || (disjoint tx Config.maxPacket o.txOffset.toNat Config.maxPacket
            && disjoint tx Config.maxPacket o.rxOffset.toNat o.rxMaxCount.toNat
            && disjoint rx n o.txOffset.toNat Config.maxPacket
            && disjoint rx n o.rxOffset.toNat o.rxMaxCount.toNat))

/-! ## Fields of a SETUP packet -/

/-- `ct.direction` = bit 7 of `requestType` (spec/30_encoding.md R103). -/
def directionOf (requestType : Byte) : TransferDirection :=
  if requestType.getLsbD 7 then .deviceToHost else .hostToDevice

/-- The transfer object of step 4 of `CTRL.SETUP` (spec/42_control.md R162). -/
def ControlTransfer.ofSetup (requestType request : Byte) (value index length : Half) : ControlTransfer where
  requestType := requestType
  request := request
  value := value
  index := index
  length := length
  direction := directionOf requestType
  phase := .setup
  stage := .noData
  data := []
  pos := 0
  lastLen := 0

/-- `value[15:8]`: the descriptor type of GET_DESCRIPTOR (spec/30_encoding.md R105). -/
def highByte (v : Half) : Byte := v.extractLsb' 8 8

/-- `value[7:0]`: the descriptor index of GET_DESCRIPTOR, the configuration value of SET_CONFIGURATION (R105). -/
def lowByte (v : Half) : Byte := v.extractLsb' 0 8

/-- `value[6:0]`: the address of SET_ADDRESS (R105). -/
def addressOf (v : Half) : BitVec 7 := v.extractLsb' 0 7

/-- The line coding of a 7-byte payload (spec/30_encoding.md R106). -/
def lineCodingOf (q : List Byte) : LineCoding where
  baudRate := le32 q 0
  stopBits := byteAt q 4
  parity := byteAt q 5
  dataBits := byteAt q 6

/-- The 7 bytes `GET_LINE_CODING` sends (spec/30_encoding.md R106). -/
def lineCodingBytes (c : LineCoding) : List Byte :=
  bytesLe32 c.baudRate ++ [c.stopBits, c.parity, c.dataBits]

end Sys2Proof.Machine
end

