-- ==== Sys2Proof/Machine/Ops.lean ====
section
/-! DEFINITION. The shared operations: memories (spec/20_memory.md), rings (spec/10_state.md R43, R44), the commands
on the table and on the endpoint registers as handlers call them (spec/40_bdt.md, spec/41_endpoint.md), the three
errors with their resolutions (spec/60_exceptions.md), and entering and leaving a dispatcher invocation
(spec/44_dispatcher.md R221, R222; the block's taking of an interrupt, spec/60_exceptions.md R307, R308). -/

namespace Sys2Proof.Machine

/-- What a step or a part of one answers. -/
abbrev Result := Host.Outcome State Fault Refusal

/-- Go on with the next state, or stop as `o` stopped. -/
def andThen (o : Result) (f : State → Result) : Result :=
  match o with
  | .next s => f s
  | .fault r => .fault r
  | .refused r => .refused r

/-- Go on with a value read from the state, or refuse. -/
def withValue {α : Type} (v : Except Refusal α) (f : α → Result) : Result :=
  match v with
  | .ok a => f a
  | .error r => .refused r

/-! ## Memories -/

/-- The canonical form: addresses strictly rising. An unlisted address has no written value, so no entry can equal
what an unlisted address reads as (log 8). -/
def Memory.wf : Memory → Bool
  | [] => true
  | [_] => true
  | (a, _) :: (b, y) :: m => decide (a < b) && Memory.wf ((b, y) :: m)

/-- The written value at an address, none where nothing has been written. -/
def Memory.read : Memory → Nat → Option Byte
  | [], _ => none
  | (k, b) :: m, a => if k = a then some b else Memory.read m a

/-- Write one byte, keeping the canonical form. -/
def Memory.write : Memory → Nat → Byte → Memory
  | [], a, b => [(a, b)]
  | (k, c) :: m, a, b =>
    if a < k then (a, b) :: (k, c) :: m
    else if a = k then (a, b) :: m
    else (k, c) :: Memory.write m a b

/-- Write a byte string at rising addresses. -/
def Memory.writeBytes : Memory → Nat → List Byte → Memory
  | m, _, [] => m
  | m, a, b :: bs => Memory.writeBytes (Memory.write m a b) (a + 1) bs

/-- The byte at a packet-memory address: what was written last, or the free power-on byte (log 5). -/
def State.pmaByte (s : State) (a : Nat) : Byte := (Memory.read s.pma a).getD (Config.pmaPowerOn a)

/-- The `n` bytes of packet memory from `a` on. -/
def State.pmaBytes (s : State) : Nat → Nat → List Byte
  | _, 0 => []
  | a, n + 1 => s.pmaByte a :: s.pmaBytes (a + 1) n

/-- `PmaRead(addr, n)` (spec/20_memory.md R73). -/
def pmaRead (addr n : Nat) (s : State) : Except Refusal (List Byte) :=
  if n ≤ Config.maxPacket ∧ s.params.bdtFootprint ≤ addr ∧ addr + n ≤ s.params.pmaSize then
    .ok (s.pmaBytes addr n)
  else .error .pmaAccess

/-- `PmaWrite(addr, bytes)` (spec/20_memory.md R74); after an odd length the byte that follows becomes a free draw
(log 7). -/
def pmaWrite (addr : Nat) (bytes : List Byte) (s : State) : Result :=
  let n := bytes.length
  if n ≤ Config.maxPacket ∧ addr % 2 = 0 ∧ s.params.bdtFootprint ≤ addr ∧ addr + n ≤ s.params.pmaSize then
    let m := Memory.writeBytes s.pma addr bytes
    if n % 2 = 1 ∧ addr + n < s.params.pmaSize then
      .next { s with pma := Memory.write m (addr + n) (Config.freeByte s.draws), draws := s.draws + 1 }
    else .next { s with pma := m }
  else .refused .pmaAccess

/-! ## Rings -/

/-- `count(rb) = (head - tail) mod 2^16` (spec/10_state.md R44). -/
def Ring.count (rb : Ring) : Nat := (rb.head - rb.tail).toNat

/-- `space(rb) = CAP - count(rb)` (spec/10_state.md R44). -/
def Ring.space (rb : Ring) (cap : Nat) : Nat := cap - rb.count

/-- `RingLoad(rb, c)` (spec/20_memory.md R78); a slot nothing has been stored to holds a free value (log 6). -/
def ringLoad (powerOn : Nat → Byte) (cap : Nat) (buf : Memory) (c : Half) : Byte :=
  (Memory.read buf (c.toNat % cap)).getD (powerOn (c.toNat % cap))

/-- `RingStore(rb, c, b)` (spec/20_memory.md R78). -/
def ringStore (cap : Nat) (buf : Memory) (c : Half) (b : Byte) : Memory :=
  Memory.write buf (c.toNat % cap) b

/-- `RingLoad` of `n` bytes from count `c` on, in stream order (spec/20_memory.md R80). -/
def ringLoads (powerOn : Nat → Byte) (cap : Nat) (buf : Memory) : Half → Nat → List Byte
  | _, 0 => []
  | c, n + 1 => ringLoad powerOn cap buf c :: ringLoads powerOn cap buf (c + 1) n

/-- `RingStore` of a byte string from count `c` on, in stream order (spec/20_memory.md R80). -/
def ringStores (cap : Nat) : Memory → Half → List Byte → Memory
  | buf, _, [] => buf
  | buf, c, b :: bs => ringStores cap (ringStore cap buf c b) (c + 1) bs

/-! ## Commands on the table (spec/40_bdt.md) -/

/-- The record `BDT.CONFIGURE` writes when the layout is good (spec/40_bdt.md R131). -/
def tableEntry (txOffset rxOffset rxMaxSize : Half) : BdtEntry where
  txOffset := txOffset
  txCount := 0
  rxOffset := rxOffset
  rxMaxCount := rxMaxSize
  rxCount := 0

/-- `raise LayoutError`: "Resolution: `fatal <- true`" (spec/60_exceptions.md R304). -/
def raiseLayoutError (s : State) : State := { s with fatal := true }

/-- `BDT.CONFIGURE` as `INIT` calls it (spec/40_bdt.md R131): the table entry, or `LayoutError` with no field of
the table changed. -/
def configureTable (e : Ep) (txOffset rxOffset rxMaxSize : Half) (s : State) : State :=
  if layoutOk s e txOffset rxOffset rxMaxSize then
    (s.setBdt e (tableEntry txOffset rxOffset rxMaxSize)).setBdtConfigured e true
  else raiseLayoutError s

/-- `BDT.SETTXCOUNT ep, n` (spec/40_bdt.md R134). -/
def setTxCount (e : Ep) (n : Half) (s : State) : Result :=
  if s.bdtConfigured e = false then .refused .entryNotConfigured
  else if Config.maxPacket < n.toNat then .refused .txCountTooLarge
  else .next (s.setBdt e { s.bdt e with txCount := n })

/-- `BDT.READRXCOUNT ep` (spec/40_bdt.md R135). -/
def readRxCount (e : Ep) (s : State) : Except Refusal Half :=
  if s.bdtConfigured e = false then .error .entryNotConfigured
  else .ok (s.bdt e).rxCount

/-! ## Commands on the endpoint registers (spec/41_endpoint.md) -/

/-- `EP.CONFIGURE ep, type, txInit, rxInit` (spec/41_endpoint.md R141): the initial statuses are requests. -/
def configureEndpoint (e : Ep) (ty : EpType) (txInit rxInit : Status) (s : State) : State :=
  s.setEp e { s.ep e with
    type := ty
    txToggle := false
    rxToggle := false
    stalled := false
    configured := true
    txStatReq := some txInit
    rxStatReq := some rxInit }

/-- `EP.SETSTATUS ep, dir, status` (spec/41_endpoint.md R143, R144). -/
def setStatus (e : Ep) (d : Dir) (st : Status) (s : State) : Result :=
  if (s.ep e).configured = false then .refused .endpointNotConfigured
  else .next (s.setEp e ((s.ep e).request d st))

/-- `EP.TOGGLE ep, dir` (spec/41_endpoint.md R146, R144). -/
def toggleData (e : Ep) (d : Dir) (s : State) : Result :=
  if (s.ep e).configured = false then .refused .endpointNotConfigured
  else .next (s.setEp e ((s.ep e).flip d))

/-! ## Errors (spec/60_exceptions.md section 1) -/

/-- The reasons of a `ProtocolError`: names of the raising rule, stored nowhere (spec/60_exceptions.md R301). -/
inductive ProtocolReason where
  | badSetupLength | unsupportedRequest | badSetAddress | noSuchDescriptor
  | badSetConfiguration | badLineCodingLength | badLineCodingPayload | badControlLineState
  deriving DecidableEq, Repr

/-- The stall action `STALL0` (spec/42_control.md R166). -/
def stall0 (s : State) : Result :=
  andThen (setStatus .ep0 .tx .stall s) fun s =>
  andThen (setStatus .ep0 .rx .stall s) fun s =>
  .next { s with ep0 := { s.ep0 with stalled := true }, ct := none, pendingAddr := none }

/-- `raise ProtocolError(reason)`: resolved by the stall action; the reason selects nothing (spec/60_exceptions.md
R301, R302). -/
def raiseProtocolError (_reason : ProtocolReason) (s : State) : Result := stall0 s

/-- `sat32(v) = min(v, 2^32 - 1)` (spec/00_scope.md R9). -/
def sat32 (v : Nat) : Word32 := BitVec.ofNat 32 (min v (2 ^ 32 - 1))

/-- `raise Overrun(dropped)`: the saturating count (spec/60_exceptions.md R303). -/
def raiseOverrun (dropped : Nat) (s : State) : State :=
  { s with overrunCount := sat32 (s.overrunCount.toNat + dropped) }

/-! ## The dispatcher invocation (spec/60_exceptions.md R307, R308) -/

/-- Entering an invocation: "`dispSnap <- some ISTAT`. Nothing else changes" (spec/44_dispatcher.md R221,
spec/60_exceptions.md R307). -/
def enterInvocation (s : State) : State := { s with dispSnap := some s.istat }

/-- After the event `e` of the snapshot: the invocation goes on with the flags left, or ends ("there is no return
instruction", spec/44_dispatcher.md R222, spec/60_exceptions.md R308). -/
def leaveEvent (snap : Istat) (e : Event) (s : State) : State :=
  { s with dispSnap := if (snap.clear e).irq then some (snap.clear e) else none }

/-- One handler, and then "clear only the flags handled" (spec/44_dispatcher.md R222, R235). "It takes no step while
`fatal` is true" (R220). DESIGN CHOICE (log 35, unsafe): this test stands here alone; a command, a request or a body run
on its own has its rule's effect whatever `fatal` is. -/
def handleEvent (e : Event) (body : State → Result) (s : State) : Result :=
  if s.fatal then .next s
  else andThen (body s) fun s => .next { s with istat := s.istat.clear e }

/-! ## The link (spec/46_bus_link.md section 1) -/

/-- Applying pending status requests on both endpoints (spec/46_bus_link.md R260). -/
def applyRequests (s : State) : State :=
  { s with ep0 := s.ep0.applyRequests, ep1 := s.ep1.applyRequests }

/-- What the link answers in this step. -/
def respond (r : BusResponse) (s : State) : State := { s with busResp := r }

/-- Every link step: nothing at all while `fatal`, else the pending requests first (spec/46_bus_link.md R260, R262). -/
def linkStep (body : State → Result) (s : State) : Result :=
  if s.fatal then .next (respond .silent s) else body (applyRequests s)

/-- The endpoint a token addresses: the address filter and the endpoint filter (spec/46_bus_link.md R261, R262). -/
def tokenTarget (addr : BitVec 7) (endp : BitVec 4) (s : State) : Option Ep :=
  if addr = s.devAddr then
    match endpOf endp with
    | some e => if s.bdtConfigured e then some e else none
    | none => none
  else none

/-- Answer by status (spec/46_bus_link.md R263). -/
def answerByStatus (st : Status) (perform : State → Result) (s : State) : Result :=
  match st with
  | .disabled => .next (respond .silent s)
  | .stall => .next (respond (.handshake .stall) s)
  | .nak => .next (respond (.handshake .nak) s)
  | .valid => perform s

end Sys2Proof.Machine
end

