-- ==== Sys2Proof/Machine/Bridge.lean ====
section
/-! DEFINITION. The serial byte bridge (spec/45_bridge.md): the six operations of the application agent (format A), and
the micro-steps in which `BR.WRITE` and `BR.READ` go on (spec/20_memory.md R85; log 14). -/

namespace Sys2Proof.Machine

/-- A bridge operation starts only when none is in progress (spec/45_bridge.md R241, spec/20_memory.md R88). -/
def startBridge (body : State → State) (s : State) : Result :=
  match s.appOp with
  | none => .next (body s)
  | some _ => .refused .bridgeBusy

/-- `BR.WRITE bytes`, micro-step W1, the snapshot (spec/45_bridge.md R243). -/
def execBrWrite (bytes : List Byte) (s : State) : Result :=
  startBridge (fun s => { s with appOp := some {
    kind := .write
    h := s.txrb.head
    t := s.txrb.tail
    k := min bytes.length (s.txrb.space s.params.txCap)
    i := 0
    bytes := bytes } }) s

/-- `BR.READ m`, micro-step R1, the snapshot (spec/45_bridge.md R247). -/
def execBrRead (m : Nat) (s : State) : Result :=
  startBridge (fun s => { s with appOp := some {
    kind := .read
    h := s.rxrb.head
    t := s.rxrb.tail
    k := min m s.rxrb.count
    i := 0
    bytes := [] } }) s

/-- `BR.AVAIL` (spec/45_bridge.md R250). -/
def execBrAvail (s : State) : Result :=
  startBridge (fun s => { s with appResult := .number s.rxrb.count }) s

/-- `BR.SPACE` (spec/45_bridge.md R251). -/
def execBrSpace (s : State) : Result :=
  startBridge (fun s => { s with appResult := .number (s.txrb.space s.params.txCap) }) s

/-- `BR.OVERRUN` (spec/45_bridge.md R252). -/
def execBrOverrun (s : State) : Result :=
  startBridge (fun s => { s with appResult := .number s.overrunCount.toNat }) s

/-- `BR.KICK` (spec/45_bridge.md R254). -/
def execBrKick (s : State) : Result :=
  startBridge (fun s => { s with istat := { s.istat with kick := true } }) s

/-- Micro-step W2: store one byte (spec/45_bridge.md R243). -/
def writeOne (op : AppOp) (b : Byte) (s : State) : State :=
  { s with
    txrb := { s.txrb with buf := ringStore s.params.txCap s.txrb.buf (op.h + BitVec.ofNat 16 op.i) b }
    appOp := some { op with i := op.i + 1 } }

/-- Micro-step W3: publish (spec/45_bridge.md R243). -/
def publishWrite (op : AppOp) (s : State) : State :=
  { s with
    txrb := { s.txrb with head := op.h + BitVec.ofNat 16 op.k }
    appOp := none
    appResult := .accepted op.k }

/-- Micro-step R2: load one byte (spec/45_bridge.md R247). -/
def readOne (op : AppOp) (s : State) : State :=
  { s with appOp := some { op with
      bytes := op.bytes ++ [ringLoad Config.rxRingPowerOn s.params.rxCap s.rxrb.buf (op.t + BitVec.ofNat 16 op.i)]
      i := op.i + 1 } }

/-- Micro-step R3: publish (spec/45_bridge.md R247). -/
def publishRead (op : AppOp) (s : State) : State :=
  { s with
    rxrb := { s.rxrb with tail := op.t + BitVec.ofNat 16 op.k }
    appOp := none
    appResult := .filled op.k op.bytes }

/-- The next micro-step of the bridge operation in progress; no effect when there is none (spec/20_memory.md R85). -/
def appMicroStep (s : State) : Result :=
  match s.appOp with
  | none => .next s
  | some op =>
    match op.kind with
    | .write =>
      if op.i < op.k then
        match op.bytes[op.i]? with
        | some b => .next (writeOne op b s)
        | none => .refused .appOpInconsistent
      else .next (publishWrite op s)
    | .read => if op.i < op.k then .next (readOne op s) else .next (publishRead op s)

end Sys2Proof.Machine
end

