-- ==== Sys2Proof/Machine/Bus.lean ====
section
/-! DEFINITION. The link agent (spec/46_bus_link.md): bus transactions and bus conditions (format B). -/

namespace Sys2Proof.Machine

/-- Taking a SETUP packet (spec/46_bus_link.md R264): stored, counted, both directions of endpoint 0 forced to Nak,
`ctEp0Rx` and `setup` set, ACK. -/
def acceptSetup (data : List Byte) (s : State) : Result :=
  andThen (pmaWrite s.bdt0.rxOffset.toNat data s) fun s =>
  .next (respond (.handshake .ack) { s with
    bdt0 := { s.bdt0 with rxCount := 8 }
    ep0 := { s.ep0 with txStat := .nak, rxStat := .nak, txStatReq := none, rxStatReq := none }
    istat := { s.istat with ctEp0Rx := true, setup := true } })

/-- `BUS.SETUP addr, endp, data` (spec/46_bus_link.md R264). -/
def execBusSetup (addr : BitVec 7) (endp : BitVec 4) (data : List Byte) (s : State) : Result :=
  linkStep (fun s =>
    match tokenTarget addr endp s with
    | some .ep0 =>
      if data.length ≠ Config.setupLen ∨ s.ep0.rxStat = .disabled ∨ s.bdt0.rxMaxCount.toNat < 8 then
        .next (respond .silent s)
      else acceptSetup data s
    | some .ep1 => .next (respond .silent s)
    | none => .next (respond .silent s)) s

/-- Taking an OUT packet with the expected toggle (spec/46_bus_link.md R266). -/
def acceptOut (e : Ep) (data : List Byte) (s : State) : Result :=
  andThen (pmaWrite (s.bdt e).rxOffset.toNat data s) fun s =>
  .next (respond (.handshake .ack)
    { (s.setBdt e { s.bdt e with rxCount := BitVec.ofNat 16 data.length }).setEp e
        { s.ep e with rxStat := .nak } with
      istat := s.istat.setCtRx e })

/-- `BUS.OUT` on an endpoint whose `rxStat` is Valid (spec/46_bus_link.md R266, R267). -/
def performOut (e : Ep) (tog : Bool) (data : List Byte) (s : State) : Result :=
  if (s.bdt e).rxMaxCount.toNat < data.length then .next (respond .silent s)
  else if tog ≠ (s.ep e).rxToggle then .next (respond (.handshake .ack) s)
  else acceptOut e data s

/-- `BUS.OUT addr, endp, tog, data` (spec/46_bus_link.md R266). -/
def execBusOut (addr : BitVec 7) (endp : BitVec 4) (tog : Bool) (data : List Byte) (s : State) : Result :=
  linkStep (fun s =>
    match tokenTarget addr endp s with
    | some e => answerByStatus (s.ep e).rxStat (performOut e tog data) s
    | none => .next (respond .silent s)) s

/-- `BUS.IN` on an endpoint whose `txStat` is Valid (spec/46_bus_link.md R269). -/
def performIn (e : Ep) (hostAck : Bool) (s : State) : Result :=
  withValue (pmaRead (s.bdt e).txOffset.toNat (s.bdt e).txCount.toNat s) fun d =>
  let answered := respond (.packet (s.ep e).txToggle d hostAck) s
  if hostAck then
    .next { answered.setEp e { s.ep e with txStat := .nak } with istat := s.istat.setCtTx e }
  else .next answered

/-- `BUS.IN addr, endp, hostAck` (spec/46_bus_link.md R269). -/
def execBusIn (addr : BitVec 7) (endp : BitVec 4) (hostAck : Bool) (s : State) : Result :=
  linkStep (fun s =>
    match tokenTarget addr endp s with
    | some e => answerByStatus (s.ep e).txStat (performIn e hostAck) s
    | none => .next (respond .silent s)) s

/-- What a bus reset does to an endpoint's registers (spec/46_bus_link.md R272). -/
def Endpoint.onBusReset (x : Endpoint) : Endpoint :=
  { x with txStat := .disabled, rxStat := .disabled, txStatReq := none, rxStatReq := none, configured := false }

/-- `BUS.RESET` (spec/46_bus_link.md R272). -/
def execBusReset (s : State) : Result :=
  linkStep (fun s =>
    .next (respond .silent { s with
      ep0 := s.ep0.onBusReset
      ep1 := s.ep1.onBusReset
      devAddr := 0
      istat := s.istat.onBusReset })) s

/-- `BUS.SUSPEND` (spec/46_bus_link.md R274). -/
def execBusSuspend (s : State) : Result :=
  linkStep (fun s => .next (respond .silent { s with istat := { s.istat with susp := true } })) s

/-- `BUS.WAKEUP` (spec/46_bus_link.md R275). -/
def execBusWakeup (s : State) : Result :=
  linkStep (fun s => .next (respond .silent { s with istat := { s.istat with wkup := true } })) s

end Sys2Proof.Machine
end

