-- ==== Sys2Proof/Machine/Commands.lean ====
section
/-! DEFINITION. Format C: the register-model commands as operations of their own (spec/40_bdt.md, spec/41_endpoint.md).
Handlers call the shared operations of Ops.lean directly; these meanings add the result a caller sees (log 4, 15).
None tests `fatal` (log 35). -/

namespace Sys2Proof.Machine

/-- `BDT.CONFIGURE` (spec/40_bdt.md R131): only inside `INIT` (spec/93_implementation_defined.md F4); the result is ok
or LayoutError. -/
def execBdtConfigure (e : Ep) (txOffset rxOffset rxMaxSize : Half) (s : State) : Result :=
  if s.lifecycle = .initialising then
    .next { configureTable e txOffset rxOffset rxMaxSize s with
      cmdResult := if layoutOk s e txOffset rxOffset rxMaxSize then .ok else .layoutError }
  else .refused .configureOutsideInit

/-- `BDT.SETTXCOUNT` (spec/40_bdt.md R134). -/
def execBdtSetTxCount (e : Ep) (n : Half) (s : State) : Result := setTxCount e n s

/-- `BDT.READRXCOUNT` (spec/40_bdt.md R135). -/
def execBdtReadRxCount (e : Ep) (s : State) : Result :=
  withValue (readRxCount e s) fun n => .next { s with cmdResult := .count n }

/-- `EP.CONFIGURE` (spec/41_endpoint.md R141). -/
def execEpConfigure (e : Ep) (ty : EpType) (txInit rxInit : Status) (s : State) : Result :=
  .next (configureEndpoint e ty txInit rxInit s)

/-- `EP.SETSTATUS` (spec/41_endpoint.md R143). -/
def execEpSetStatus (e : Ep) (d : Dir) (st : Status) (s : State) : Result := setStatus e d st s

/-- `EP.TOGGLE` (spec/41_endpoint.md R146). -/
def execEpToggle (e : Ep) (d : Dir) (s : State) : Result := toggleData e d s

end Sys2Proof.Machine
end

