-- ==== Sys2Proof/Machine/Bulk.lean ====
section
/-! DEFINITION. The bulk data path of endpoint 1 (spec/43_bulk.md): `BULK.OUT_DONE`, `BULK.IN_DONE`, `BULK.KICK` and
the helper `TryStartIn`.None tests `fatal` (log 35). -/

namespace Sys2Proof.Machine

/-- Store the first `k` bytes of a received packet and publish the index (spec/43_bulk.md R203, R204). -/
def appendRx (d : List Byte) (k : Nat) (s : State) : State :=
  { s with rxrb := {
      buf := ringStores s.params.rxCap s.rxrb.buf s.rxrb.head (d.take k)
      head := s.rxrb.head + BitVec.ofNat 16 k
      tail := s.rxrb.tail } }

/-- `if n > k: raise Overrun(n - k)` (spec/43_bulk.md R203). -/
def recordOverrun (n k : Nat) (s : State) : State := if k < n then raiseOverrun (n - k) s else s

/-- `BULK.OUT_DONE` (spec/43_bulk.md R203), with the guard of R201. -/
def execBulkOutDone (s : State) : Result :=
  if s.ep1.configured = false then .next s
  else
    withValue (readRxCount .ep1 s) fun n =>
    withValue (pmaRead s.bdt1.rxOffset.toNat n.toNat s) fun d =>
    let k := min n.toNat (s.rxrb.space s.params.rxCap)
    andThen (toggleData .ep1 .rx (recordOverrun n.toNat k (appendRx d k s))) fun s =>
    setStatus .ep1 .rx .valid s

/-- Arm a packet of `n` bytes on EP1 tx (the last three lines of the first two branches of spec/43_bulk.md R205). -/
def armIn (n : Nat) (s : State) : Result :=
  andThen (setTxCount .ep1 (BitVec.ofNat 16 n) s) fun s =>
  andThen (setStatus .ep1 .tx .valid s) fun s =>
  .next { s with ep1TxBusy := true, ep1TxLastLen := n }

/-- `TryStartIn(afterCompletion)` (spec/43_bulk.md R205): one packet if the TX ring holds bytes, a terminating
zero-length packet if `TX_ZLP` asks for one, else nothing. -/
def tryStartIn (afterCompletion : Bool) (s : State) : Result :=
  let avail := s.txrb.count
  if 0 < avail then
    let n := min Config.maxPacket avail
    let d := ringLoads Config.txRingPowerOn s.params.txCap s.txrb.buf s.txrb.tail n
    andThen (pmaWrite s.bdt1.txOffset.toNat d s) fun s =>
    armIn n { s with txrb := { s.txrb with tail := s.txrb.tail + BitVec.ofNat 16 n } }
  else if s.params.txZlp ∧ afterCompletion ∧ s.ep1TxLastLen = Config.maxPacket then armIn 0 s
  else .next s

/-- `BULK.IN_DONE` (spec/43_bulk.md R206), with the guard of R201. -/
def execBulkInDone (s : State) : Result :=
  if s.ep1.configured = false then .next s
  else
    andThen (toggleData .ep1 .tx s) fun s =>
    tryStartIn true { s with ep1TxBusy := false }

/-- `BULK.KICK` (spec/43_bulk.md R208). -/
def execBulkKick (s : State) : Result :=
  if s.ep1.configured ∧ s.ep1TxBusy = false then tryStartIn false s else .next s

end Sys2Proof.Machine
end

