-- ==== Sys2Proof/Machine/Control.lean ====
section
/-! DEFINITION. The control transfer state machine of endpoint 0 (spec/42_control.md): the helpers, the eight request
rules (format S), and the three bodies `CTRL.SETUP`, `CTRL.IN_DONE`, `CTRL.OUT_DONE` (format H).None tests `fatal` (log 35). -/

namespace Sys2Proof.Machine

/-! ## Helpers -/

/-- `StartStatusIn`: the device acknowledges with a zero-length IN packet (spec/42_control.md R164). -/
def startStatusIn (t : ControlTransfer) (s : State) : Result :=
  andThen (setTxCount .ep0 0 { s with ct := some { t with phase := .statusStage, lastLen := 0 } }) fun s =>
  setStatus .ep0 .tx .valid s

/-- `SendChunk`: arm the next packet of an IN data stage (spec/42_control.md R165). -/
def sendChunk (t : ControlTransfer) (s : State) : Result :=
  let n := min Config.maxPacket (t.data.length - t.pos)
  andThen (pmaWrite s.bdt0.txOffset.toNat ((t.data.drop t.pos).take n) s) fun s =>
  andThen (setTxCount .ep0 (BitVec.ofNat 16 n) { s with ct := some { t with lastLen := n } }) fun s =>
  setStatus .ep0 .tx .valid s

/-- `StartDataIn(resp)`: begin a device-to-host data stage, or skip it when the host asked for nothing
(spec/42_control.md R163). -/
def startDataIn (resp : List Byte) (t : ControlTransfer) (s : State) : Result :=
  if t.length = 0 then startStatusIn t s
  else
    andThen (sendChunk { t with data := resp.take t.length.toNat, pos := 0, stage := .dataIn,
                                phase := .dataStage } s) fun s =>
    setStatus .ep0 .rx .valid s

/-- `Finish`: the transfer is over (spec/42_control.md R167). -/
def finish (s : State) : State := { s with ct := none }

/-- Applying a staged address (spec/42_control.md R176). -/
def applyStagedAddress (s : State) : State :=
  match s.pendingAddr with
  | some a =>
    { s with devAddr := a, devState := if a ≠ 0 then .addressed else s.devState, pendingAddr := none }
  | none => s

/-! ## Requests. Each rule starts from the transfer object that step 4 of `CTRL.SETUP` makes of the packet's
fields (spec/42_control.md R162; log 13). -/

/-- `REQ.GET_STATUS` (spec/42_control.md R170). -/
def execReqGetStatus (value index length : Half) (s : State) : Result :=
  startDataIn [0x00, 0x00] (.ofSetup 0x80 0x00 value index length) s

/-- `REQ.SET_ADDRESS` (spec/42_control.md R172). -/
def execReqSetAddress (value index length : Half) (s : State) : Result :=
  if length ≠ 0 ∨ 127 < value.toNat ∨ (s.devState ≠ .default ∧ s.devState ≠ .addressed)
      ∨ (value = 0 ∧ s.devState = .addressed) then
    raiseProtocolError .badSetAddress s
  else
    startStatusIn (.ofSetup 0x00 0x05 value index length) { s with pendingAddr := some (addressOf value) }

/-- `REQ.GET_DESCRIPTOR` (spec/42_control.md R174). -/
def execReqGetDescriptor (value index length : Half) (s : State) : Result :=
  match s.params.descriptor (highByte value) (lowByte value) with
  | none => raiseProtocolError .noSuchDescriptor s
  | some d => startDataIn d (.ofSetup 0x80 0x06 value index length) s

/-- `REQ.SET_CONFIGURATION` (spec/42_control.md R178). -/
def execReqSetConfiguration (value index length : Half) (s : State) : Result :=
  if length ≠ 0 ∨ highByte value ≠ 0 ∨ lowByte value ≠ s.params.configValue
      ∨ (s.devState ≠ .addressed ∧ s.devState ≠ .configured) then
    raiseProtocolError .badSetConfiguration s
  else
    startStatusIn (.ofSetup 0x00 0x09 value index length)
      { configureEndpoint .ep1 .bulk .nak .valid { s with devState := .configured } with
        ep1TxBusy := false, ep1TxLastLen := 0 }

/-- `REQ.SET_LINE_CODING`, SETUP part (spec/42_control.md R180). -/
def execReqSetLineCoding (value index length : Half) (s : State) : Result :=
  if length ≠ 7 then raiseProtocolError .badLineCodingLength s
  else
    setStatus .ep0 .rx .valid
      { s with ct := some { ControlTransfer.ofSetup 0x21 0x20 value index length with
                            stage := .dataOut, phase := .dataStage } }

/-- `REQ.GET_LINE_CODING` (spec/42_control.md R183). -/
def execReqGetLineCoding (value index length : Half) (s : State) : Result :=
  startDataIn (lineCodingBytes s.lineCoding) (.ofSetup 0xA1 0x21 value index length) s

/-- `REQ.SET_CONTROL_LINE_STATE` (spec/42_control.md R185). -/
def execReqSetControlLineState (value index length : Half) (s : State) : Result :=
  if length ≠ 0 then raiseProtocolError .badControlLineState s
  else startStatusIn (.ofSetup 0x21 0x22 value index length) s

/-- `REQ.UNSUPPORTED` (spec/42_control.md R187). -/
def execReqUnsupported (_requestType _request : Byte) (_value _index _length : Half) (s : State) : Result :=
  raiseProtocolError .unsupportedRequest s

/-- Step 5 of `CTRL.SETUP`: perform the rule of the selected request (spec/30_encoding.md R104). -/
def performRequest (requestType request : Byte) (value index length : Half) (s : State) : Result :=
  match selectRequest requestType request with
  | .getStatus => execReqGetStatus value index length s
  | .setAddress => execReqSetAddress value index length s
  | .getDescriptor => execReqGetDescriptor value index length s
  | .setConfiguration => execReqSetConfiguration value index length s
  | .setLineCoding => execReqSetLineCoding value index length s
  | .getLineCoding => execReqGetLineCoding value index length s
  | .setControlLineState => execReqSetControlLineState value index length s
  | .unsupported => execReqUnsupported requestType request value index length s

/-! ## Bodies -/

/-- Steps 1 and 2 of `CTRL.SETUP` (spec/42_control.md R162): abort what was in flight, cancel what a handler armed,
both toggles to 1 (spec/41_endpoint.md R148), the stall over. -/
def abortTransfer (s : State) : Result :=
  andThen (setStatus .ep0 .tx .nak { s with ct := none, pendingAddr := none }) fun s =>
  andThen (setStatus .ep0 .rx .nak s) fun s =>
  .next { s with ep0 := { s.ep0 with txToggle := true, rxToggle := true, stalled := false } }

/-- `CTRL.SETUP` (spec/42_control.md R162). -/
def execCtrlSetup (s : State) : Result :=
  andThen (abortTransfer s) fun s =>
  withValue (readRxCount .ep0 s) fun n =>
  if n ≠ 8 then raiseProtocolError .badSetupLength s
  else
    withValue (pmaRead s.bdt0.rxOffset.toNat Config.setupLen s) fun p =>
    performRequest (byteAt p 0) (byteAt p 1) (le16 p 2) (le16 p 4) (le16 p 6) s

/-- The next step of an IN data stage whose packet was acknowledged (spec/42_control.md R188): more data, a terminating
zero-length packet, or the wait for the host's status packet. -/
def advanceDataIn (t : ControlTransfer) (s : State) : Result :=
  let u := { t with pos := t.pos + t.lastLen }
  if u.pos < u.data.length then sendChunk u s
  else if u.lastLen = Config.maxPacket ∧ u.data.length < u.length.toNat then
    andThen (setTxCount .ep0 0 { s with ct := some { u with lastLen := 0 } }) fun s =>
    setStatus .ep0 .tx .valid s
  else .next { s with ct := some { u with phase := .statusStage } }

/-- `CTRL.IN_DONE` (spec/42_control.md R188). -/
def execCtrlInDone (s : State) : Result :=
  andThen (toggleData .ep0 .tx s) fun s =>
  match s.ct with
  | none => .next s
  | some t =>
    if t.phase = .dataStage ∧ t.stage = .dataIn then advanceDataIn t s
    else if t.phase = .statusStage ∧ (t.stage = .dataOut ∨ t.stage = .noData) then
      .next (finish (applyStagedAddress s))
    else .next s

/-- `REQ.SET_LINE_CODING`, data part (spec/42_control.md R181). -/
def storeLineCoding (t : ControlTransfer) (s : State) : Result :=
  withValue (readRxCount .ep0 s) fun n =>
  if n ≠ 7 then raiseProtocolError .badLineCodingPayload s
  else
    withValue (pmaRead s.bdt0.rxOffset.toNat Config.lineCodingLen s) fun q =>
    startStatusIn t { s with lineCoding := lineCodingOf q }

/-- `CTRL.OUT_DONE` (spec/42_control.md R190). -/
def execCtrlOutDone (s : State) : Result :=
  andThen (toggleData .ep0 .rx s) fun s =>
  match s.ct with
  | none => .next s
  | some t =>
    if t.phase = .dataStage ∧ t.stage = .dataOut then storeLineCoding t s
    else if t.stage = .dataIn ∧ (t.phase = .dataStage ∨ t.phase = .statusStage) then
      andThen (setStatus .ep0 .tx .nak s) fun s => .next (finish s)
    else .next s

end Sys2Proof.Machine
end

