-- ==== Sys2Proof/Machine/Events.lean ====
section
/-! DEFINITION. The interrupt dispatcher (spec/44_dispatcher.md): the nine event handlers and `DISPATCH`. A handler's
meaning is its rule's body and then the clearing of its flag (R222, R235; log 12). -/

namespace Sys2Proof.Machine

/-- The body of `EV.RESET` (spec/44_dispatcher.md R224). -/
def resetBody (s : State) : Result :=
  let s := configureEndpoint .ep0 .control .nak .nak { s with ct := none, pendingAddr := none }
  .next { s with
    ep1 := { s.ep1 with
      txToggle := false
      rxToggle := false
      stalled := false
      configured := false
      txStat := .disabled
      rxStat := .disabled
      txStatReq := none
      rxStatReq := none }
    ep1TxBusy := false
    ep1TxLastLen := 0
    devAddr := 0
    devState := .default }

/-- `EV.RESET` (spec/44_dispatcher.md R224). -/
def execEvReset (s : State) : Result := handleEvent .reset resetBody s

/-- The body of `EV.SUSPEND`: only from Configured (spec/44_dispatcher.md R226, R228). -/
def suspendBody (s : State) : Result :=
  .next (if s.devState = .configured then { s with devState := .suspended } else s)

/-- `EV.SUSPEND` (spec/44_dispatcher.md R226). -/
def execEvSuspend (s : State) : Result := handleEvent .susp suspendBody s

/-- The body of `EV.WAKEUP`: only from Suspended (spec/44_dispatcher.md R227). -/
def wakeupBody (s : State) : Result :=
  .next (if s.devState = .suspended then { s with devState := .configured } else s)

/-- `EV.WAKEUP` (spec/44_dispatcher.md R227). -/
def execEvWakeup (s : State) : Result := handleEvent .wkup wakeupBody s

/-- `EV.EP0_IN` (spec/44_dispatcher.md R229). -/
def execEvEp0In (s : State) : Result := handleEvent .ctEp0Tx execCtrlInDone s

/-- `EV.EP0_SETUP` (spec/44_dispatcher.md R230). -/
def execEvEp0Setup (s : State) : Result := handleEvent .ctEp0Rx execCtrlSetup s

/-- `EV.EP0_OUT` (spec/44_dispatcher.md R231). -/
def execEvEp0Out (s : State) : Result := handleEvent .ctEp0Rx execCtrlOutDone s

/-- `EV.EP1_OUT` (spec/44_dispatcher.md R232; the guard is the body's, spec/43_bulk.md R201). -/
def execEvEp1Out (s : State) : Result := handleEvent .ctEp1Rx execBulkOutDone s

/-- `EV.EP1_IN` (spec/44_dispatcher.md R233; the guard is the body's, spec/43_bulk.md R201). -/
def execEvEp1In (s : State) : Result := handleEvent .ctEp1Tx execBulkInDone s

/-- `EV.KICK` (spec/44_dispatcher.md R234). -/
def execEvKick (s : State) : Result := handleEvent .kick execBulkKick s

/-- The handler of an event; for event 5 ISTAT's `setup` flag "at this step" decides (spec/44_dispatcher.md R222).
DESIGN CHOICE (log 31, unsafe): like R222 and R229 to R233 it does not look at `EP[e].type`, so the bodies run as well
on an endpoint 0 configured as Bulk or an endpoint 1 as Control, of which spec/41_endpoint.md R141 (b) says that no
rule of the two endpoints applies. -/
def runHandler (e : Event) (s : State) : Result :=
  match e with
  | .reset => execEvReset s
  | .susp => execEvSuspend s
  | .wkup => execEvWakeup s
  | .ctEp0Tx => execEvEp0In s
  | .ctEp0Rx => if s.istat.setup then execEvEp0Setup s else execEvEp0Out s
  | .ctEp1Rx => execEvEp1Out s
  | .ctEp1Tx => execEvEp1In s
  | .kick => execEvKick s

/-- `DISPATCH`, handler step (spec/44_dispatcher.md R222). -/
def handlerStep (snap : Istat) (s : State) : Result :=
  if snap.irq = false then .next { s with dispSnap := none }
  else
    match snap.firstEvent with
    | none => .refused .noEventSelected
    | some e =>
      andThen (if s.istat.has e then runHandler e s else .next s) fun s => .next (leaveEvent snap e s)

/-- `DISPATCH`: one dispatcher step (log 11). With no invocation running the entry step, enabled when `irq` = 1
(spec/44_dispatcher.md R221); inside an invocation the handler step (R222); no effect when the dispatcher has no
step (R220, spec/20_memory.md R87). The word of format E selects the operation (spec/30_encoding.md R107); the entry
step itself reads the status register, whatever the word was. -/
def execDispatch (_event : Half) (s : State) : Result :=
  if s.fatal then .next s
  else
    match s.dispSnap with
    | some snap => handlerStep snap s
    | none => if s.istat.irq then .next (enterInvocation s) else .next s

end Sys2Proof.Machine
end

