-- ==== Sys2Proof/Machine/PowerOn.lean ====
section
/-! DEFINITION. Format P: `INIT`, the power-on step (spec/70_reset_and_hazards.md R331). -/

namespace Sys2Proof.Machine

/-- "set every field to column `po` of 10_state.md rule R50, with bdtConfigured[0] = bdtConfigured[1] = false". The
table offsets are written by the two `BDT.CONFIGURE` that follow; until then they hold the layout with no entry
configured. -/
def powerOnFields (s : State) : State :=
  { s with
    lifecycle := .initialising
    devState := .powered
    devAddr := 0
    pendingAddr := none
    fatal := false
    ep0 := Endpoint.powerOn .control
    ep1 := Endpoint.powerOn .bulk
    bdt0 := BdtEntry.ofLayout s.params.layout0
    bdt1 := BdtEntry.ofLayout s.params.layout1
    bdtConfigured0 := false
    bdtConfigured1 := false
    ct := none
    lineCoding := s.params.lineCodingReset
    istat := Istat.empty
    dispSnap := none
    rxrb := Ring.empty
    txrb := Ring.empty
    ep1TxBusy := false
    ep1TxLastLen := 0
    overrunCount := 0
    appOp := none
    pma := [] }

/-- The end of `INIT`: ok, or fatal (spec/opcode_table.json, row INIT). -/
def endInit (s : State) : State :=
  { s with lifecycle := .running, cmdResult := if s.fatal then .layoutError else .ok }

/-- `INIT` (spec/70_reset_and_hazards.md R331): exactly once (spec/93_implementation_defined.md F7). -/
def execInit (s : State) : Result :=
  if s.lifecycle = .off then
    let p := s.params
    let s0 := powerOnFields s
    let s1 := configureTable .ep0 p.layout0.tx p.layout0.rx p.layout0.rxMaxSize s0
    if s1.fatal then .next (endInit s1)
    else
      let s2 := configureTable .ep1 p.layout1.tx p.layout1.rx p.layout1.rxMaxSize s1
      if s2.fatal then .next (endInit { s2 with bdtConfigured0 := false })
      else .next (endInit s2)
  else .refused .secondInit

end Sys2Proof.Machine
end

