-- ==== Sys2Proof/Machine/Dispatch.lean ====
section
/-! DEFINITION. The meaning of every operation of spec/opcode_table.json. -/

namespace Sys2Proof.Machine

def exec (i : Instr) (s : State) : Host.Outcome State Fault Refusal :=
  match i with
  | .init => Sys2Proof.Machine.execInit s
  | .bdtConfigure ep tx rx m => Sys2Proof.Machine.execBdtConfigure ep tx rx m s
  | .bdtSetTxCount ep n => Sys2Proof.Machine.execBdtSetTxCount ep n s
  | .bdtReadRxCount ep => Sys2Proof.Machine.execBdtReadRxCount ep s
  | .epConfigure ep ty tx rx => Sys2Proof.Machine.execEpConfigure ep ty tx rx s
  | .epSetStatus ep d st => Sys2Proof.Machine.execEpSetStatus ep d st s
  | .epToggle ep d => Sys2Proof.Machine.execEpToggle ep d s
  | .brWrite bytes => Sys2Proof.Machine.execBrWrite bytes s
  | .brRead m => Sys2Proof.Machine.execBrRead m s
  | .brAvail => Sys2Proof.Machine.execBrAvail s
  | .brSpace => Sys2Proof.Machine.execBrSpace s
  | .brOverrun => Sys2Proof.Machine.execBrOverrun s
  | .brKick => Sys2Proof.Machine.execBrKick s
  | .dispatch event => Sys2Proof.Machine.execDispatch event s
  | .evReset => Sys2Proof.Machine.execEvReset s
  | .evSuspend => Sys2Proof.Machine.execEvSuspend s
  | .evWakeup => Sys2Proof.Machine.execEvWakeup s
  | .evEp0In => Sys2Proof.Machine.execEvEp0In s
  | .evEp0Setup => Sys2Proof.Machine.execEvEp0Setup s
  | .evEp0Out => Sys2Proof.Machine.execEvEp0Out s
  | .evEp1Out => Sys2Proof.Machine.execEvEp1Out s
  | .evEp1In => Sys2Proof.Machine.execEvEp1In s
  | .evKick => Sys2Proof.Machine.execEvKick s
  | .busSetup addr endp data => Sys2Proof.Machine.execBusSetup addr endp data s
  | .busOut addr endp tog data => Sys2Proof.Machine.execBusOut addr endp tog data s
  | .busIn addr endp hostAck => Sys2Proof.Machine.execBusIn addr endp hostAck s
  | .busReset => Sys2Proof.Machine.execBusReset s
  | .busSuspend => Sys2Proof.Machine.execBusSuspend s
  | .busWakeup => Sys2Proof.Machine.execBusWakeup s
  | .reqGetStatus v ix l => Sys2Proof.Machine.execReqGetStatus v ix l s
  | .reqSetAddress v ix l => Sys2Proof.Machine.execReqSetAddress v ix l s
  | .reqGetDescriptor v ix l => Sys2Proof.Machine.execReqGetDescriptor v ix l s
  | .reqSetConfiguration v ix l => Sys2Proof.Machine.execReqSetConfiguration v ix l s
  | .reqSetLineCoding v ix l => Sys2Proof.Machine.execReqSetLineCoding v ix l s
  | .reqGetLineCoding v ix l => Sys2Proof.Machine.execReqGetLineCoding v ix l s
  | .reqSetControlLineState v ix l => Sys2Proof.Machine.execReqSetControlLineState v ix l s
  | .reqUnsupported rt rq v ix l => Sys2Proof.Machine.execReqUnsupported rt rq v ix l s
  | .ctrlSetup => Sys2Proof.Machine.execCtrlSetup s
  | .ctrlInDone => Sys2Proof.Machine.execCtrlInDone s
  | .ctrlOutDone => Sys2Proof.Machine.execCtrlOutDone s
  | .bulkOutDone => Sys2Proof.Machine.execBulkOutDone s
  | .bulkInDone => Sys2Proof.Machine.execBulkInDone s
  | .bulkKick => Sys2Proof.Machine.execBulkKick s

end Sys2Proof.Machine
end

