-- ==== Sys2Proof/Machine/Fetch.lean ====
section
/-! DEFINITION. What the next step runs (log 3): the head of the queue of choices, or, with an empty queue, the
dispatcher if it has a step, else the application's operation in progress, else nothing. And where an operation
stands in `INIT`'s order (spec/70_reset_and_hazards.md R331). -/

namespace Sys2Proof.Machine

/-- What the next step does, on the state it does it to. -/
inductive NextOp where
  /-- an operation runs -/
  | run (i : Instr) (s : State)
  /-- the application takes a micro-step -/
  | micro (s : State)
  /-- no agent has a step -/
  | idle
  /-- the bytes offered name no operation -/
  | bad (e : DecodeError)
  deriving DecidableEq, Repr

/-- The word of format E that a dispatcher's turn presents: the register at entry, the snapshot inside an invocation
(spec/30_encoding.md R107, spec/44_dispatcher.md R221, R222). -/
def State.dispatchWord (s : State) : Half :=
  match s.dispSnap with
  | some snap => snap.pack
  | none => s.istat.pack

/-- "the dispatcher has a step exactly when `dispSnap` is not `none` or `irq` = 1" (spec/20_memory.md R87), and none
while `fatal` (spec/44_dispatcher.md R220). -/
def State.dispatcherHasStep (s : State) : Bool := !s.fatal && (s.dispSnap.isSome || s.istat.irq)

/-- The next step's operation. -/
def nextOp (s : State) : NextOp :=
  match s.inputs with
  | .request f bytes :: rest =>
    match decodeExact f bytes with
    | .ok i => .run i { s with inputs := rest }
    | .error e => .bad e
  | .dispatcher :: rest => .run (.dispatch s.dispatchWord) { s with inputs := rest }
  | .application :: rest => .micro { s with inputs := rest }
  | [] =>
    if s.dispatcherHasStep then .run (.dispatch s.dispatchWord) s
    else if s.appOp.isSome then .micro s
    else .idle

/-- Where an operation belongs: `INIT` before everything, `BDT.CONFIGURE` inside it, every other after it
(spec/70_reset_and_hazards.md R331, spec/93_implementation_defined.md F4, F7). -/
def lifecycleOf : Instr → Lifecycle
  | .init => .off
  | .bdtConfigure _ _ _ _ => .initialising
  | _ => .running

/-- "The first step of every run; ... no other step can precede it" (spec/70_reset_and_hazards.md R331): nothing but
`INIT` before `INIT`, nothing but `BDT.CONFIGURE` inside it. A second `INIT` and a `BDT.CONFIGURE` after it are
refused by their own meanings. -/
def gate (i : Instr) (s : State) : Option Refusal :=
  match s.lifecycle with
  | .off => if lifecycleOf i = .off then none else some .beforeInit
  | .initialising => if lifecycleOf i = .initialising then none else some .insideInit
  | .running => none

/-- A micro-step of the application before or inside `INIT` is as little a step as any other. -/
def microGate (s : State) : Option Refusal :=
  match s.lifecycle with
  | .off => some .beforeInit
  | .initialising => some .insideInit
  | .running => none

/-- With nothing to do the block waits for the host or the application (spec/70_reset_and_hazards.md R351); a block
whose `fatal` is set is a faulted run (R333; log 17). -/
def idleStep (s : State) : Result :=
  if s.fatal then .fault .layoutFatal else .next s

/-- How many of the bytes of a table word the operation takes; all of them where they decode to none. -/
def usedBytes (f : Format) (bytes : List Byte) : List Byte :=
  match decode f bytes with
  | .ok (_, rest) => bytes.take (bytes.length - rest.length)
  | .error _ => bytes

/-- The endpoint that an operation can only come up with configured: the two commands of spec/41_endpoint.md R144, and
everything that runs inside a transfer-complete handler of endpoint 0 (spec/44_dispatcher.md R229 to R231). -/
def neededEndpoint : Instr → Option Ep
  | .epSetStatus e _ _ => some e
  | .epToggle e _ => some e
  | .evEp0In => some .ep0
  | .evEp0Setup => some .ep0
  | .evEp0Out => some .ep0
  | .reqGetStatus _ _ _ => some .ep0
  | .reqSetAddress _ _ _ => some .ep0
  | .reqGetDescriptor _ _ _ => some .ep0
  | .reqSetConfiguration _ _ _ => some .ep0
  | .reqSetLineCoding _ _ _ => some .ep0
  | .reqGetLineCoding _ _ _ => some .ep0
  | .reqSetControlLineState _ _ _ => some .ep0
  | .reqUnsupported _ _ _ _ _ => some .ep0
  | _ => none

/-- Put the block where the operation can come up: at its place in `INIT`'s order, and with the endpoint it needs
configured (log 2, 10). -/
def readyFor (i : Instr) (s : State) : State :=
  let s := { s with lifecycle := lifecycleOf i }
  match neededEndpoint i with
  | some e => s.setEp e { s.ep e with configured := true }
  | none => s

/-- Put a word of spec/opcode_table.json where the next step fetches it, at the head of the queue on its interface, and
the block where that operation can come up. -/
def placeWord (nbits w : Nat) (s : State) : State :=
  let bytes := usedBytes (tableFormat nbits w) (tableBytes nbits w)
  let s := { s with inputs := .request (tableFormat nbits w) bytes :: s.inputs }
  match decodeTableWord nbits w with
  | some i => readyFor i s
  | none => s

end Sys2Proof.Machine
end

