-- ==== Sys2Proof/Machine/Step.lean ====
section
/-! DEFINITION. One step of the machine: what is next (Fetch.lean) is run (Dispatch.lean). -/

namespace Sys2Proof.Machine

/-- One atomic step of one agent (spec/00_scope.md R11). -/
def step (s : State) : Host.Outcome State Fault Refusal :=
  match nextOp s with
  | .run i s' =>
    match gate i s' with
    | some r => .refused r
    | none => exec i s'
  | .micro s' =>
    match microGate s' with
    | some r => .refused r
    | none => appMicroStep s'
  | .idle => idleStep s
  | .bad e => .refused (.undecodable e)

/-- The state whose next step fetches and runs the operation of a word of spec/opcode_table.json. -/
def State.withFetchWord (s : State) (nbits w : Nat) : State := placeWord nbits w s

end Sys2Proof.Machine
end

