-- ==== Sys2Proof/Machine/Pseudo.lean ====
section
/-! DEFINITION. The pseudo-operations of spec/30_encoding.md R114: sequences of steps with no other agent's step between
them. They add no behaviour to the machine; tests and statements use them. -/

namespace Sys2Proof.Machine

/-- At most `n` handler steps of the invocation in progress. -/
def handlerSteps : Nat → State → Result
  | 0, s => .next s
  | n + 1, s =>
    match s.dispSnap with
    | none => .next s
    | some _ => andThen (execDispatch s.dispatchWord s) (handlerSteps n)

/-- `DISPATCH` as a whole invocation: the entry step and every handler step (R114, spec/44_dispatcher.md R236); a
snapshot has at most eight events and one stray `setup` flag. -/
def invocation (s : State) : Result :=
  if s.dispatcherHasStep then andThen (execDispatch s.dispatchWord s) (handlerSteps 9) else .next s

/-- `DISPATCH*`: `DISPATCH` repeated until `irq` = 0 (R114). With `fatal` false two invocations suffice, since no handler
sets a flag and one invocation may have been in progress. DESIGN CHOICE (log 34, unsafe): with `fatal` true the
dispatcher takes no step (spec/44_dispatcher.md R220), so a flag that is set, as `BR.KICK` still sets `kick`, stays set;
the repetition R114 describes would not end, and the model's ends all the same, with the state unchanged. -/
def invocations (s : State) : Result := andThen (invocation s) invocation

/-- At most `n` micro-steps of the bridge operation in progress. -/
def microSteps : Nat → State → Result
  | 0, s => .next s
  | n + 1, s =>
    match s.appOp with
    | none => .next s
    | some _ => andThen (appMicroStep s) (microSteps n)

/-- All micro-steps left of the bridge operation in progress. -/
def finishBridge (s : State) : Result :=
  match s.appOp with
  | none => .next s
  | some op => microSteps (op.k + 1) s

/-- `BR.WRITE` written on one line (R114). -/
def wholeWrite (bytes : List Byte) (s : State) : Result := andThen (execBrWrite bytes s) finishBridge

/-- `BR.READ` written on one line (R114). -/
def wholeRead (m : Nat) (s : State) : Result := andThen (execBrRead m s) finishBridge

/-- `ARM e dir` (R114). -/
def arm (e : Ep) (d : Dir) (s : State) : Result := execEpSetStatus e d .valid s

/-- `CTRL.NODATA [p]` (R114). -/
def ctrlNoData (addr : BitVec 7) (p : List Byte) (s : State) : Result :=
  andThen (execBusSetup addr 0 p s) fun s =>
  andThen (invocation s) fun s =>
  andThen (execBusIn addr 0 true s) invocation

/-- `CTRL.OUT [p] [d]` (R114). -/
def ctrlOut (addr : BitVec 7) (p d : List Byte) (s : State) : Result :=
  andThen (execBusSetup addr 0 p s) fun s =>
  andThen (invocation s) fun s =>
  andThen (execBusOut addr 0 true d s) fun s =>
  andThen (invocation s) fun s =>
  andThen (execBusIn addr 0 true s) invocation

/-- The IN packets of `CTRL.IN`, at most `n`: until one is shorter than 64 bytes or `left` bytes have arrived (R114).
DESIGN CHOICE (log 30, unsafe): an IN answered NAK, STALL or not at all, of which R114 does not speak, ends the packets
too, and `CTRL.IN` goes on to its status packet. -/
def ctrlInPackets (addr : BitVec 7) : Nat → Nat → State → Result
  | 0, _, s => .next s
  | n + 1, left, s =>
    andThen (execBusIn addr 0 true s) fun s =>
    andThen (invocation s) fun s' =>
    match s.busResp with
    | .packet _ d _ =>
      if d.length < Config.maxPacket ∨ left ≤ d.length then .next s'
      else ctrlInPackets addr n (left - d.length) s'
    | _ => .next s'

/-- `CTRL.IN [p]` (R114); a reply of at most 65535 bytes takes at most 1024 packets. -/
def ctrlIn (addr : BitVec 7) (p : List Byte) (s : State) : Result :=
  andThen (execBusSetup addr 0 p s) fun s =>
  andThen (invocation s) fun s =>
  andThen (ctrlInPackets addr 1025 (le16 p 6).toNat s) fun s =>
  andThen (execBusOut addr 0 true [] s) invocation

end Sys2Proof.Machine
end

