-- ==== Sys2Proof/Machine/Views.lean ====
section
/-! DEFINITION. The packed read-only views an observer can read (spec/10_state.md R23, R32, R41; spec/60_exceptions.md
R301, R314, R316). They are views of the fields, with no side effect; no rule of the block reads them. -/

namespace Sys2Proof.Machine

/-- `EPR[e]`: [1:0] rxStat, [3:2] txStat, [4] rxToggle, [5] txToggle, [6] type, [7] stalled, [8] configured, [15:9] zero
(spec/10_state.md R32). -/
def Endpoint.pack (x : Endpoint) : Half :=
  x.rxStat.code.setWidth 16 ||| (x.txStat.code.setWidth 16 <<< 2)
    ||| flagBit x.rxToggle 4 ||| flagBit x.txToggle 5 ||| (x.type.code.setWidth 16 <<< 6)
    ||| flagBit x.stalled 7 ||| flagBit x.configured 8

/-- "Powered = 0, Default = 1, Addressed = 2, Configured = 3, Suspended = 4, in 3 bits" (spec/10_state.md R23). -/
def DevState.code : DevState → BitVec 3
  | .powered => 0
  | .default => 1
  | .addressed => 2
  | .configured => 3
  | .suspended => 4

/-- The registers at fixed addresses (spec/60_exceptions.md R314). -/
inductive RegView where
  | epr (e : Ep)
  | istat
  | daddr
  deriving DecidableEq, Repr

/-- Where a register view stands: OPEN parameters (spec/00_scope.md R8, spec/10_state.md R32; log 21). -/
def RegView.address : RegView → Nat
  | .epr e => Config.eprBase + 2 * e.number.toNat
  | .istat => Config.istatAddr
  | .daddr => Config.daddrAddr

/-- The bus address of a packet-memory byte: packet memory stands at `BDT_BASE` (spec/60_exceptions.md R314). DESIGN
CHOICE (log 33, unsafe): one address a byte, in the order of the bytes, which spec/91_not_in_source.md N8 says must not
be assumed. No operation forms this address. -/
def pmaBusAddress (a : Nat) : Nat := Config.bdtBase + a

/-- What an observer reads; `devAddr` is "7 bits, upper bits zero" (spec/60_exceptions.md R314). DESIGN CHOICE (log 32,
unsafe): that view is 16 bits wide like the other registers, since no rule says how many upper bits there are. -/
def State.view (s : State) : RegView → Half
  | .epr e => (s.ep e).pack
  | .istat => s.istat.pack
  | .daddr => s.devAddr.setWidth 16

/-- The numbers of the three error kinds, "0 = no error" (spec/60_exceptions.md R301). -/
inductive ErrorKind where
  | protocolError | overrun | layoutError
  deriving DecidableEq, Repr

/-- "`ProtocolError` = 1, `Overrun` = 2, `LayoutError` = 3; 0 = no error" (spec/60_exceptions.md R301). -/
def errorCode : Option ErrorKind → Nat
  | none => 0
  | some .protocolError => 1
  | some .overrun => 2
  | some .layoutError => 3

/-- The states of the control state machine, read off `ct` (spec/10_state.md R38). -/
inductive ControlState where
  | idle
  | setup
  | dataStage (stage : Stage)
  | statusStage
  deriving DecidableEq, Repr

/-- Idle, Setup, DataStage(x) or StatusStage (spec/10_state.md R38). -/
def State.controlState (s : State) : ControlState :=
  match s.ct with
  | none => .idle
  | some t =>
    match t.phase with
    | .setup => .setup
    | .dataStage => .dataStage t.stage
    | .statusStage => .statusStage

/-- A state in which "no agent of the block has a step until the host or the application acts"
(spec/70_reset_and_hazards.md R351). -/
def State.quiescent (s : State) : Bool := !s.istat.irq && s.dispSnap.isNone && s.appOp.isNone

end Sys2Proof.Machine
end

