-- ==== Sys2Proof/Safety.lean ====
section
/-! DEFINITION. The terms claims are stated in: what memories read as, what a ring holds, which steps the four agents
take, and what holds in every state a run of the agents reaches (spec/10_state.md R34, R51). -/

namespace Sys2Proof.Machine

/-! ## Reading the memories -/

/-- The byte in slot `i` of the RX ring store. -/
def State.rxSlot (s : State) (i : Nat) : Byte := (Memory.read s.rxrb.buf i).getD (Config.rxRingPowerOn i)

/-- The byte in slot `i` of the TX ring store. -/
def State.txSlot (s : State) (i : Nat) : Byte := (Memory.read s.txrb.buf i).getD (Config.txRingPowerOn i)

/-- Every byte of packet memory reads as before. -/
def SamePma (s t : State) : Prop := ∀ a, t.pmaByte a = s.pmaByte a

/-- Every byte of both ring stores reads as before. -/
def SameRings (s t : State) : Prop := (∀ i, t.rxSlot i = s.rxSlot i) ∧ ∀ i, t.txSlot i = s.txSlot i

/-- Every byte of all three memories reads as before. -/
def SameMemories (s t : State) : Prop := SamePma s t ∧ SameRings s t

/-- Every packet-memory byte reads as before, but those a `PmaWrite` of `n` bytes at `addr` may change: the `n` bytes
and, after an odd length, the byte that follows (spec/20_memory.md R74). -/
def SamePmaOutside (addr n : Nat) (s t : State) : Prop :=
  ∀ a, (a < addr ∨ addr + n + n % 2 ≤ a) → t.pmaByte a = s.pmaByte a

/-- The bytes the RX ring holds, oldest first (spec/10_state.md R43, spec/20_memory.md R80). -/
def State.rxContents (s : State) : List Byte :=
  ringLoads Config.rxRingPowerOn s.params.rxCap s.rxrb.buf s.rxrb.tail s.rxrb.count

/-- The bytes the TX ring holds, oldest first. -/
def State.txContents (s : State) : List Byte :=
  ringLoads Config.txRingPowerOn s.params.txCap s.txrb.buf s.txrb.tail s.txrb.count

/-- The three memories are in canonical form (log 8). -/
def State.memoriesCanonical (s : State) : Bool :=
  Memory.wf s.pma && Memory.wf s.rxrb.buf && Memory.wf s.txrb.buf

/-! ## The table (spec/10_state.md R34) -/

/-- The invariant of one table entry: aligned, above the footprint, counts in range, both regions inside packet memory. -/
def entryOk (p : Params) (b : BdtEntry) : Prop :=
  b.txOffset.toNat % 2 = 0 ∧ b.rxOffset.toNat % 2 = 0
    ∧ p.bdtFootprint ≤ b.txOffset.toNat ∧ p.bdtFootprint ≤ b.rxOffset.toNat
    ∧ 1 ≤ b.rxMaxCount.toNat ∧ b.rxMaxCount.toNat ≤ 64
    ∧ b.txCount.toNat ≤ 64 ∧ b.rxCount.toNat ≤ b.rxMaxCount.toNat
    ∧ b.txOffset.toNat + 64 ≤ p.pmaSize ∧ b.rxOffset.toNat + b.rxMaxCount.toNat ≤ p.pmaSize

/-- Address `a` lies in the transmit region of an entry. -/
def inTxRegion (b : BdtEntry) (a : Nat) : Prop := b.txOffset.toNat ≤ a ∧ a < b.txOffset.toNat + 64

/-- Address `a` lies in the receive region of an entry. -/
def inRxRegion (b : BdtEntry) (a : Nat) : Prop :=
  b.rxOffset.toNat ≤ a ∧ a < b.rxOffset.toNat + b.rxMaxCount.toNat

/-- "no two regions of any configured endpoints overlap", both endpoints configured. -/
def regionsApart (b0 b1 : BdtEntry) : Prop :=
  ∀ a, ¬ (inTxRegion b0 a ∧ inRxRegion b0 a) ∧ ¬ (inTxRegion b1 a ∧ inRxRegion b1 a)
    ∧ ¬ (inTxRegion b0 a ∧ inTxRegion b1 a) ∧ ¬ (inTxRegion b0 a ∧ inRxRegion b1 a)
    ∧ ¬ (inRxRegion b0 a ∧ inTxRegion b1 a) ∧ ¬ (inRxRegion b0 a ∧ inRxRegion b1 a)

/-- R34 for a block whose two entries are configured. -/
def State.tableOk (s : State) : Prop :=
  s.bdtConfigured0 = true ∧ s.bdtConfigured1 = true
    ∧ entryOk s.params s.bdt0 ∧ entryOk s.params s.bdt1 ∧ regionsApart s.bdt0 s.bdt1

/-- The layout parameters lay out both endpoints (spec/40_bdt.md R132 for the two calls `INIT` makes). -/
def layoutGood (p : Params) : Prop :=
  entryOk p (BdtEntry.ofLayout p.layout0) ∧ entryOk p (BdtEntry.ofLayout p.layout1)
    ∧ regionsApart (BdtEntry.ofLayout p.layout0) (BdtEntry.ofLayout p.layout1)

/-- Column "po" of spec/10_state.md R50 with the parameters of `s`; what no rule writes is kept from `s`. -/
def State.poweredOn (s : State) : State :=
  { State.reset with
    params := s.params
    inputs := s.inputs
    bdt0 := BdtEntry.ofLayout s.params.layout0
    bdt1 := BdtEntry.ofLayout s.params.layout1
    lineCoding := s.params.lineCodingReset
    draws := s.draws
    busResp := s.busResp
    appResult := s.appResult }

/-! ## Who may write what -/

/-- Operations that can run `CTRL.SETUP` or a request of it. -/
def mayConfigure : Instr → Bool
  | .reqSetConfiguration _ _ _ => true
  | .ctrlSetup => true
  | .evEp0Setup => true
  | .dispatch _ => true
  | _ => false

/-- A move of `devState` that operation `i` may make (spec/10_state.md R23): each writer the rule names, run on its own
or as the event of a `DISPATCH`. -/
def devStateMove (i : Instr) (s t : State) : Prop :=
  t.devState = s.devState
    ∨ (t.devState = .powered ∧ i = .init)
    ∨ (t.devState = .default ∧ (i = .evReset ∨ ∃ w, i = .dispatch w))
    ∨ (t.devState = .addressed ∧ s.pendingAddr.isSome = true
        ∧ (i = .ctrlInDone ∨ i = .evEp0In ∨ ∃ w, i = .dispatch w))
    ∨ (t.devState = .configured ∧ s.devState = .addressed ∧ mayConfigure i = true)
    ∨ (t.devState = .suspended ∧ s.devState = .configured ∧ (i = .evSuspend ∨ ∃ w, i = .dispatch w))
    ∨ (t.devState = .configured ∧ s.devState = .suspended ∧ (i = .evWakeup ∨ ∃ w, i = .dispatch w))

/-! ## Which operation is which -/

/-- The link's operations (spec/30_encoding.md R108). -/
def isLinkOp : Instr → Bool
  | .busSetup _ _ _ => true
  | .busOut _ _ _ _ => true
  | .busIn _ _ _ => true
  | .busReset => true
  | .busSuspend => true
  | .busWakeup => true
  | _ => false

/-- The application's operations (spec/30_encoding.md R110). -/
def isBridgeOp : Instr → Bool
  | .brWrite _ => true
  | .brRead _ => true
  | .brAvail => true
  | .brSpace => true
  | .brOverrun => true
  | .brKick => true
  | _ => false

/-- The operations that act on endpoint 0 alone as a handler of its events does: the three bodies and the requests. -/
def isEp0Work : Instr → Bool
  | .ctrlSetup => true
  | .ctrlInDone => true
  | .ctrlOutDone => true
  | .reqGetStatus _ _ _ => true
  | .reqSetAddress _ _ _ => true
  | .reqGetDescriptor _ _ _ => true
  | .reqSetConfiguration _ _ _ => true
  | .reqSetLineCoding _ _ _ => true
  | .reqGetLineCoding _ _ _ => true
  | .reqSetControlLineState _ _ _ => true
  | .reqUnsupported _ _ _ _ _ => true
  | _ => false

/-- The event that an event handler handles (spec/30_encoding.md R107). -/
def eventOf : Instr → Option Event
  | .evReset => some .reset
  | .evSuspend => some .susp
  | .evWakeup => some .wkup
  | .evEp0In => some .ctEp0Tx
  | .evEp0Setup => some .ctEp0Rx
  | .evEp0Out => some .ctEp0Rx
  | .evEp1Out => some .ctEp1Rx
  | .evEp1In => some .ctEp1Tx
  | .evKick => some .kick
  | _ => none

/-- The handler of an event, given ISTAT's `setup` flag when it runs (spec/44_dispatcher.md R222). -/
def handlerOf (setup : Bool) : Event → Instr
  | .reset => .evReset
  | .susp => .evSuspend
  | .wkup => .evWakeup
  | .ctEp0Tx => .evEp0In
  | .ctEp0Rx => if setup then .evEp0Setup else .evEp0Out
  | .ctEp1Rx => .evEp1Out
  | .ctEp1Tx => .evEp1In
  | .kick => .evKick

/-- The priority number of an event (spec/44_dispatcher.md R222). -/
def Event.priority : Event → Nat
  | .reset => 1
  | .susp => 2
  | .wkup => 3
  | .ctEp0Tx => 4
  | .ctEp0Rx => 5
  | .ctEp1Rx => 6
  | .ctEp1Tx => 7
  | .kick => 8

/-! ## Where the rules of the two endpoints leave the block -/

/-- Endpoint 0 can run a control transfer: configured, its entry laid out (spec/41_endpoint.md R144, spec/40_bdt.md
R134, R135, spec/10_state.md R34). Its type is not asked (log 31). -/
def State.ep0Ready (s : State) : Prop :=
  s.ep0.configured = true ∧ s.bdtConfigured0 = true ∧ entryOk s.params s.bdt0

/-- Endpoint 1 can move bulk data. Its type is not asked (log 31). -/
def State.ep1Ready (s : State) : Prop :=
  s.ep1.configured = true ∧ s.bdtConfigured1 = true ∧ entryOk s.params s.bdt1

/-- The block after the stall action (spec/42_control.md R166). -/
def State.stalledEp0 (s : State) : State :=
  { s with
    ep0 := { s.ep0 with txStatReq := some .stall, rxStatReq := some .stall, stalled := true }
    ct := none
    pendingAddr := none }

/-- The block after `StartStatusIn` of transfer `c` (spec/42_control.md R164). -/
def State.statusInArmed (c : ControlTransfer) (s : State) : State :=
  { s with
    ct := some { c with phase := .statusStage, lastLen := 0 }
    bdt0 := { s.bdt0 with txCount := 0 }
    ep0 := { s.ep0 with txStatReq := some .valid } }

/-- `t` is `s` after `SendChunk` of transfer `c` (spec/42_control.md R165): the next bytes of the reply, at most 64,
stand in the EP0 tx buffer, counted and armed; nothing else changed. -/
def ChunkArmed (c : ControlTransfer) (s t : State) : Prop :=
  let n := min 64 (c.data.length - c.pos)
  t = { s with
      ct := some { c with lastLen := n }
      bdt0 := { s.bdt0 with txCount := BitVec.ofNat 16 n }
      ep0 := { s.ep0 with txStatReq := some .valid }
      pma := t.pma
      draws := t.draws }
    ∧ t.pmaBytes s.bdt0.txOffset.toNat n = (c.data.drop c.pos).take n
    ∧ SamePmaOutside s.bdt0.txOffset.toNat n s t

/-- `t` is `s` after `StartDataIn(resp)` of transfer `c` (spec/42_control.md R163): with `length` 0 the status stage is
armed, else the first packet of at most `length` bytes of the reply and the receive direction. -/
def DataInStarted (resp : List Byte) (c : ControlTransfer) (s t : State) : Prop :=
  if c.length = 0 then t = s.statusInArmed c
  else
    ChunkArmed { c with data := resp.take c.length.toNat, pos := 0, stage := .dataIn, phase := .dataStage }
      { s with ep0 := { s.ep0 with rxStatReq := some .valid } } t

/-- The block after steps 1 and 2 of `CTRL.SETUP` (spec/42_control.md R162). -/
def State.aborted (s : State) : State :=
  { s with
    ct := none
    pendingAddr := none
    ep0 := { s.ep0 with
      txStatReq := some .nak, rxStatReq := some .nak, txToggle := true, rxToggle := true, stalled := false } }

/-- The block after arming `n` bytes on EP1 tx (spec/43_bulk.md R205). -/
def State.ep1Armed (n : Nat) (s : State) : State :=
  { s with
    bdt1 := { s.bdt1 with txCount := BitVec.ofNat 16 n }
    ep1 := { s.ep1 with txStatReq := some .valid }
    ep1TxBusy := true
    ep1TxLastLen := n }

/-- `t` is `s` after `TryStartIn` (spec/43_bulk.md R205). -/
def InTried (afterCompletion : Bool) (s t : State) : Prop :=
  let n := min 64 s.txrb.count
  if 0 < s.txrb.count then
    t = { s.ep1Armed n with
        txrb := { s.txrb with tail := s.txrb.tail + BitVec.ofNat 16 n }
        pma := t.pma
        draws := t.draws }
      ∧ t.pmaBytes s.bdt1.txOffset.toNat n = s.txContents.take n
      ∧ t.txContents = s.txContents.drop n
      ∧ SamePmaOutside s.bdt1.txOffset.toNat n s t
  else if s.params.txZlp = true ∧ afterCompletion = true ∧ s.ep1TxLastLen = 64 then t = s.ep1Armed 0
  else t = s

/-! ## The steps of the four agents -/

/-- A choice of the environment or the scheduler that is a step of one of the four agents (spec/00_scope.md R11): a bus
transaction, a bridge operation, power-on, the dispatcher's turn, the application's turn. The rest are an event
handler, a request or a register-model command called on its own (log 15). -/
def Input.isAgentStep : Input → Bool
  | .request .P _ => true
  | .request .A _ => true
  | .request .B _ => true
  | .request .C _ => false
  | .request .E _ => false
  | .request .S _ => false
  | .dispatcher => true
  | .application => true

/-- The next step is one of the four agents'. -/
def State.nextIsAgentStep (s : State) : Bool :=
  match s.inputs with
  | [] => true
  | x :: _ => x.isAgentStep

/-! ## What holds between the agents' steps (spec/10_state.md R51, and what it rests on) -/

/-- Both directions Disabled and nothing requested. -/
def Endpoint.isSilent (x : Endpoint) : Prop :=
  x.txStat = .disabled ∧ x.rxStat = .disabled ∧ x.txStatReq = none ∧ x.rxStatReq = none

/-- A transfer object between two steps: never in phase Setup, never DataStage(none) (spec/10_state.md R38), and the
part of the reply that is armed lies inside the reply. -/
def ControlTransfer.isConsistent (t : ControlTransfer) : Prop :=
  t.phase ≠ .setup ∧ ¬ (t.phase = .dataStage ∧ t.stage = .noData)
    ∧ t.lastLen ≤ 64 ∧ t.pos ≤ t.data.length
    ∧ (t.phase = .dataStage → t.pos + t.lastLen ≤ t.data.length)

/-- A bridge operation in progress against the ring it works on (spec/20_memory.md R79). -/
def AppOp.isConsistent (s : State) (op : AppOp) : Prop :=
  op.i ≤ op.k
    ∧ match op.kind with
      | .write => op.h = s.txrb.head ∧ op.k ≤ op.bytes.length ∧ op.k + s.txrb.count ≤ s.params.txCap
      | .read => op.t = s.rxrb.tail ∧ op.k ≤ s.rxrb.count ∧ op.bytes.length = op.i

/-- The staged address belongs to a SET_ADDRESS whose status stage is under way (spec/42_control.md R172, R176). -/
def State.pendingOk (s : State) : Prop :=
  s.pendingAddr = none
    ∨ ((s.devState = .default ∨ s.devState = .addressed)
        ∧ ∃ t, s.ct = some t ∧ t.phase = .statusStage ∧ t.stage = .noData)

/-- What holds in every state the four agents reach after a successful `INIT`: the clauses of spec/10_state.md R51, of
which (f) is weakened by the window after a bus reset (log 18), and the facts those rest on. -/
structure State.Invariant (s : State) : Prop where
  paramsOk : s.params.wf = true
  running : s.lifecycle = .running
  notFatal : s.fatal = false
  /-- R51 (a) -/
  table : s.tableOk
  /-- R51 (b) -/
  rxBound : s.rxrb.count ≤ s.params.rxCap
  /-- R51 (b) -/
  txBound : s.txrb.count ≤ s.params.txCap
  /-- R51 (c) -/
  idlePending : s.ct = none → s.pendingAddr = none
  /-- R51 (d) -/
  poweredSilent : s.devState = .powered → s.ep0.isSilent ∧ s.ep1.isSilent
  /-- R51 (e) -/
  ep1Configured : s.ep1.configured = true → s.devState = .configured ∨ s.devState = .suspended
  /-- R51 (f), and the window of log 18 -/
  busyConfigured : s.ep1TxBusy = true → s.ep1.configured = true ∨ s.istat.reset = true
  /-- R51 (g) -/
  setupQualifies : s.istat.ctEp0Rx = false → s.istat.setup = false
  /-- an endpoint that is not configured is silent (spec/10_state.md R31) -/
  silent0 : s.ep0.configured = false → s.ep0.isSilent
  silent1 : s.ep1.configured = false → s.ep1.isSilent
  poweredUnconfigured : s.devState = .powered → s.ep0.configured = false ∧ s.ep1.configured = false
  /-- between a bus reset and its handler no endpoint is configured (spec/46_bus_link.md R272) -/
  resetUnconfigured : s.istat.reset = true → s.ep0.configured = false ∧ s.ep1.configured = false
  /-- a completion flag stands only for a configured endpoint (spec/43_bulk.md R201) -/
  flags0 : s.istat.ctEp0Rx = true ∨ s.istat.ctEp0Tx = true → s.ep0.configured = true
  flags1 : s.istat.ctEp1Rx = true ∨ s.istat.ctEp1Tx = true → s.ep1.configured = true
  pending : s.pendingOk
  transfer : ∀ t, s.ct = some t → t.isConsistent
  bridge : ∀ op, s.appOp = some op → op.isConsistent s
  lastLen : s.ep1TxLastLen ≤ 64
  /-- a snapshot has a flag left, and `setup` only beside `ctEp0Rx` -/
  snapshot : ∀ f, s.dispSnap = some f → f.irq = true ∧ (f.ctEp0Rx = false → f.setup = false)

end Sys2Proof.Machine
end

