-- ==== Sys2Proof/WellFormed.lean ====
section
/-! DEFINITION. Which operations are well-formed: those an encoding of spec/30_encoding.md can express. Most operand
ranges hold by the operand's type, and byte strings and buffer lengths have no bound; the checks here are the rest. -/

namespace Sys2Proof

/-- The operation can be encoded: a `DISPATCH` word that can occur and is not one event's own word, and a
`REQ.UNSUPPORTED` pair that R104 does not list. -/
def Instr.wellFormed : Instr → Bool
  | .init => true
  | .bdtConfigure _ _ _ _ => true
  | .bdtSetTxCount _ _ => true
  | .bdtReadRxCount _ => true
  | .epConfigure _ _ _ _ => true
  | .epSetStatus _ _ _ => true
  | .epToggle _ _ => true
  | .brWrite _ => true
  | .brRead _ => true
  | .brAvail => true
  | .brSpace => true
  | .brOverrun => true
  | .brKick => true
  | .dispatch w => eventWordOk w && (singleEvent w).isNone
  | .evReset => true
  | .evSuspend => true
  | .evWakeup => true
  | .evEp0In => true
  | .evEp0Setup => true
  | .evEp0Out => true
  | .evEp1Out => true
  | .evEp1In => true
  | .evKick => true
  | .busSetup _ _ _ => true
  | .busOut _ _ _ _ => true
  | .busIn _ _ _ => true
  | .busReset => true
  | .busSuspend => true
  | .busWakeup => true
  | .reqGetStatus _ _ _ => true
  | .reqSetAddress _ _ _ => true
  | .reqGetDescriptor _ _ _ => true
  | .reqSetConfiguration _ _ _ => true
  | .reqSetLineCoding _ _ _ => true
  | .reqGetLineCoding _ _ _ => true
  | .reqSetControlLineState _ _ _ => true
  | .reqUnsupported rt rq _ _ _ => selectRequest rt rq == .unsupported
  | .ctrlSetup => true
  | .ctrlInDone => true
  | .ctrlOutDone => true
  | .bulkOutDone => true
  | .bulkInDone => true
  | .bulkKick => true

end Sys2Proof
end

