-- ==== Sys2Proof/Certificates/Slice0/Obligations.lean ====
section
/-! DEFINITION. The statements for the provers, in the order of spec/: encodings, the machine's step, power-on, the
table, the endpoint registers, the bridge, the dispatcher, the control endpoint, the bulk endpoint, the link, and
the whole machine. -/

open Sys2Proof Sys2Proof.Machine

/-! ## Encodings -/

/-- Decoding what the encoder wrote gives the operation back, every operand at every value the encoding admits, and
only the bodies of handlers have no encoding (spec/30_encoding.md R100 to R110; byte layout of operands: log 9). -/
def Obligations.DecodeUndoesEncode : Prop :=
  (∀ (i : Instr) (f : Format) (bytes : List Byte),
    i.wellFormed = true → encode i = some (f, bytes) → decodeExact f bytes = .ok i)
  ∧ ∀ i : Instr, encode i = none ↔
      i = .ctrlSetup ∨ i = .ctrlInDone ∨ i = .ctrlOutDone ∨ i = .bulkOutDone ∨ i = .bulkInDone ∨ i = .bulkKick

/-- Whatever the decoder reads is well-formed, and the encoder writes exactly the bytes it was read from: every word has
one meaning and no bit of it is ignored (log 9). -/
def Obligations.EncodeUndoesDecode : Prop :=
  ∀ (f : Format) (bs rest : List Byte) (i : Instr), decode f bs = .ok (i, rest) →
    i.wellFormed = true ∧ ∃ used, encode i = some (f, used) ∧ bs = used ++ rest

/-- spec/30_encoding.md R102 and R104: the 8 bytes of a SETUP packet select the request by the pair of their first two
bytes, the other fields are little-endian; a packet of another length is no request (R101). -/
def Obligations.SetupPacketSelectsTheRequest : Prop :=
  (∀ rt rq v0 v1 i0 i1 l0 l1 : Byte,
    let value : Half := v1 ++ v0
    let index : Half := i1 ++ i0
    let length : Half := l1 ++ l0
    decodeExact .S [rt, rq, v0, v1, i0, i1, l0, l1] = .ok (
      if rt = 0x80 ∧ rq = 0x00 then .reqGetStatus value index length
      else if rt = 0x00 ∧ rq = 0x05 then .reqSetAddress value index length
      else if rt = 0x80 ∧ rq = 0x06 then .reqGetDescriptor value index length
      else if rt = 0x00 ∧ rq = 0x09 then .reqSetConfiguration value index length
      else if rt = 0x21 ∧ rq = 0x20 then .reqSetLineCoding value index length
      else if rt = 0xA1 ∧ rq = 0x21 then .reqGetLineCoding value index length
      else if rt = 0x21 ∧ rq = 0x22 then .reqSetControlLineState value index length
      else .reqUnsupported rt rq value index length))
  ∧ ∀ p : List Byte, p.length ≠ 8 → ∃ e, decodeExact .S p = .error e

/-- spec/30_encoding.md R107, R112: an ISTAT word with a reserved bit, with no flag, or with `setup` alone is refused; a
word of one event is that event's handler; every other word is a `DISPATCH` (the last is the model's choice, log 11).
An operation byte outside the tables of R108 to R110, and an operand outside its type, are refused; at which byte an
operand stands is the model's choice (log 9). -/
def Obligations.WordsThatNameNothingAreRefused : Prop :=
  (∀ w : Half, decodeEventWord w = .error .reservedEventWord ↔ w &&& 0xF8C0 ≠ 0 ∨ w = 0 ∨ w = 0x0010)
  ∧ decodeEventWord 0x0100 = .ok .evReset ∧ decodeEventWord 0x0200 = .ok .evSuspend
  ∧ decodeEventWord 0x0400 = .ok .evWakeup ∧ decodeEventWord 0x0002 = .ok .evEp0In
  ∧ decodeEventWord 0x0011 = .ok .evEp0Setup ∧ decodeEventWord 0x0001 = .ok .evEp0Out
  ∧ decodeEventWord 0x0004 = .ok .evEp1Out ∧ decodeEventWord 0x0008 = .ok .evEp1In
  ∧ decodeEventWord 0x0020 = .ok .evKick
  ∧ (∀ w : Half, w &&& 0xF8C0 = 0 →
      w ∉ [0, 0x0010, 0x0100, 0x0200, 0x0400, 0x0002, 0x0011, 0x0001, 0x0004, 0x0008, 0x0020] →
      decodeEventWord w = .ok (.dispatch w))
  ∧ (∀ (op : Byte) (bs : List Byte),
      (op ≠ 0x00 → decode .P (op :: bs) = .error .unknownOperation)
      ∧ (op ∉ [0x10, 0x11, 0x12, 0x20, 0x21, 0x22] → decode .C (op :: bs) = .error .unknownOperation)
      ∧ (op ∉ [0x30, 0x31, 0x32, 0x33, 0x34, 0x35] → decode .A (op :: bs) = .error .unknownOperation)
      ∧ (op ∉ [0x5D, 0x51, 0x59, 0x60, 0x61, 0x62] → decode .B (op :: bs) = .error .unknownOperation))
  ∧ ∀ (b b1 b2 : Byte) (bs : List Byte),
      (1 < b.toNat → decode .C (0x12 :: b :: bs) = .error .badOperand)
      ∧ (1 < b.toNat → decode .C (0x22 :: 0x00 :: b :: bs) = .error .badOperand)
      ∧ (3 < b.toNat → decode .C (0x21 :: 0x00 :: 0x00 :: b :: bs) = .error .badOperand)
      ∧ (127 < b.toNat → decode .B (0x59 :: b :: b1 :: b2 :: bs) = .error .badOperand)
      ∧ (15 < b.toNat → decode .B (0x59 :: 0x00 :: b :: b2 :: bs) = .error .badOperand)

/-- Words written out from the spec's encodings decode to the operations they stand for, one of each format
(spec/30_encoding.md R104 to R110; operand bytes: log 9). -/
def Obligations.SpecWordsDecodeToTheirOperations : Prop :=
  decodeExact .P [0x00] = .ok .init
  ∧ decodeExact .C [0x21, 0x01, 0x01, 0x03] = .ok (.epSetStatus .ep1 .rx .valid)
  ∧ decodeExact .A [0x31, 0x04] = .ok (.brRead 4)
  ∧ decodeExact .B [0x59, 0x05, 0x01, 0x01] = .ok (.busIn 5 1 true)
  ∧ decodeExact .E [0x11, 0x00] = .ok .evEp0Setup
  ∧ decodeExact .S [0x80, 0x06, 0x00, 0x01, 0x00, 0x00, 0x12, 0x00] = .ok (.reqGetDescriptor 0x0100 0 18)

/-- spec/10_state.md R41 and R32: where each flag and each endpoint field stands in its packed view, that every other
bit reads 0, that `irq` is the OR of the nine flags, and at which address the views stand. -/
def Obligations.PackedViewsHaveTheSpecsLayout : Prop :=
  (∀ s : State,
    s.view .istat = s.istat.pack ∧ RegView.address .istat = Config.istatAddr
    ∧ ∀ e, s.view (.epr e) = (s.ep e).pack ∧ RegView.address (.epr e) = Config.eprBase + 2 * e.number.toNat)
  ∧ (∀ f : Istat,
    f.pack.getLsbD 0 = f.ctEp0Rx ∧ f.pack.getLsbD 1 = f.ctEp0Tx ∧ f.pack.getLsbD 2 = f.ctEp1Rx
    ∧ f.pack.getLsbD 3 = f.ctEp1Tx ∧ f.pack.getLsbD 4 = f.setup ∧ f.pack.getLsbD 5 = f.kick
    ∧ f.pack.getLsbD 8 = f.reset ∧ f.pack.getLsbD 9 = f.susp ∧ f.pack.getLsbD 10 = f.wkup
    ∧ f.pack.getLsbD 6 = false ∧ f.pack.getLsbD 7 = false ∧ (∀ i, 11 ≤ i → f.pack.getLsbD i = false)
    ∧ (f.irq = true ↔ f.pack ≠ 0))
  ∧ ∀ x : Endpoint,
    x.pack.extractLsb' 0 2 = x.rxStat.code.setWidth 2 ∧ x.pack.extractLsb' 2 2 = x.txStat.code.setWidth 2
    ∧ x.pack.getLsbD 4 = x.rxToggle ∧ x.pack.getLsbD 5 = x.txToggle
    ∧ x.pack.getLsbD 6 = decide (x.type = .bulk) ∧ x.pack.getLsbD 7 = x.stalled ∧ x.pack.getLsbD 8 = x.configured
    ∧ ∀ i, 9 ≤ i → x.pack.getLsbD i = false

/-! ## The step -/

/-- When the bytes at the head of the queue decode to an operation, a step of the running block is that operation on the
state with the bytes taken off the queue; bytes that decode to none are refused. -/
def Obligations.StepRunsDecodedInstruction : Prop :=
  ∀ (s : State) (f : Format) (bytes : List Byte) (rest : List Input),
    s.lifecycle = .running → s.inputs = .request f bytes :: rest →
    (∀ i, decodeExact f bytes = .ok i → step s = exec i { s with inputs := rest })
    ∧ ∀ e, decodeExact f bytes = .error e → step s = .refused (.undecodable e)

/-- spec/20_memory.md R87: the dispatcher has a step exactly when it is inside an invocation or `irq` is 1 (and `fatal`
is false), and takes it when the queue says so or is empty; then the application goes on; then the block waits, and
a block whose `fatal` is set is a faulted run (spec/70_reset_and_hazards.md R333, R351). The order on an empty queue
and the stop are the model's choice (log 3, 17). -/
def Obligations.StepGivesEachAgentItsTurn : Prop :=
  ∀ s : State, s.lifecycle = .running →
    let word : Half := match s.dispSnap with
      | some snap => snap.pack
      | none => s.istat.pack
    (∀ rest, s.inputs = .dispatcher :: rest → step s = exec (.dispatch word) { s with inputs := rest })
    ∧ (∀ rest, s.inputs = .application :: rest → step s = appMicroStep { s with inputs := rest })
    ∧ (s.inputs = [] →
        (s.fatal = false → (s.dispSnap ≠ none ∨ s.istat.irq = true) → step s = exec (.dispatch word) s)
        ∧ (s.fatal = true ∨ (s.dispSnap = none ∧ s.istat.irq = false) →
            (s.appOp ≠ none → step s = appMicroStep s)
            ∧ (s.appOp = none → s.fatal = false → step s = .next s)
            ∧ (s.appOp = none → s.fatal = true → step s = .fault .layoutFatal)))

/-! ## Power-on -/

/-- spec/70_reset_and_hazards.md R331 with spec/60_exceptions.md R304: `INIT` sets column "po" of R50 and lays out the
table; a layout that fails R132 leaves `fatal` true and no entry configured; nothing runs before it, and it runs
once. -/
def Obligations.InitRunsFirstOnceAndSetsThePowerOnState : Prop :=
  (∀ s : State, s.lifecycle = .off →
    (layoutGood s.params → exec .init s = .next s.poweredOn)
    ∧ (¬ layoutGood s.params →
        exec .init s = .next { s.poweredOn with
          fatal := true, bdtConfigured0 := false, bdtConfigured1 := false, cmdResult := .layoutError }))
  ∧ (∀ s : State, s.lifecycle ≠ .off → exec .init s = .refused .secondInit)
  ∧ (∀ (s : State) (f : Format) (bytes : List Byte) (rest : List Input) (i : Instr),
    s.lifecycle = .off → s.inputs = .request f bytes :: rest → decodeExact f bytes = .ok i →
    (i = .init → step s = exec .init { s with inputs := rest })
    ∧ (i ≠ .init → step s = .refused .beforeInit))
  ∧ ∀ (s : State) (rest : List Input), s.lifecycle = .off →
      (s.inputs = .dispatcher :: rest ∨ s.inputs = .application :: rest) → step s = .refused .beforeInit

/-- The reset state is what `INIT` leaves with the default parameters (the model's choice of instant, log 2); it is
canonical and satisfies the invariant of the agents' steps. -/
def Obligations.ResetIsInitsResultAndMeetsTheInvariant : Prop :=
  exec .init { State.reset with lifecycle := .off } = .next State.reset
  ∧ State.reset.memoriesCanonical = true ∧ State.reset.Invariant

/-! ## The buffer descriptor table -/

/-- spec/40_bdt.md R132: `LayoutOk`, with regions as sets of addresses. -/
def Obligations.LayoutOkSaysTheSixConditions : Prop :=
  ∀ (s : State) (e : Ep) (tx rx m : Half),
    let o := s.bdt (otherEp e)
    layoutOk s e tx rx m = true ↔
      (tx.toNat % 2 = 0 ∧ rx.toNat % 2 = 0)
      ∧ (s.params.bdtFootprint ≤ tx.toNat ∧ s.params.bdtFootprint ≤ rx.toNat)
      ∧ (1 ≤ m.toNat ∧ m.toNat ≤ 64)
      ∧ (tx.toNat + 64 ≤ s.params.pmaSize ∧ rx.toNat + m.toNat ≤ s.params.pmaSize)
      ∧ (∀ a, ¬ ((tx.toNat ≤ a ∧ a < tx.toNat + 64) ∧ (rx.toNat ≤ a ∧ a < rx.toNat + m.toNat)))
      ∧ (s.bdtConfigured (otherEp e) = true →
          ∀ a, (tx.toNat ≤ a ∧ a < tx.toNat + 64) ∨ (rx.toNat ≤ a ∧ a < rx.toNat + m.toNat) →
            ¬ inTxRegion o a ∧ ¬ inRxRegion o a)

/-- spec/40_bdt.md R131 and spec/60_exceptions.md R304: `BDT.CONFIGURE` writes the entry, or raises `LayoutError` and
changes no field of the table; outside `INIT` it is refused (spec/93_implementation_defined.md F4). -/
def Obligations.BdtConfigureReservesRegionsOrRaises : Prop :=
  ∀ (s : State) (e : Ep) (tx rx m : Half),
    (s.lifecycle = .initialising → layoutOk s e tx rx m = true →
      exec (.bdtConfigure e tx rx m) s =
        .next { (s.setBdt e ⟨tx, 0, rx, m, 0⟩).setBdtConfigured e true with cmdResult := .ok })
    ∧ (s.lifecycle = .initialising → layoutOk s e tx rx m = false →
        exec (.bdtConfigure e tx rx m) s = .next { s with fatal := true, cmdResult := .layoutError })
    ∧ (s.lifecycle ≠ .initialising → exec (.bdtConfigure e tx rx m) s = .refused .configureOutsideInit)

/-- spec/40_bdt.md R134 and R135: the two runtime accessors; nothing but the count, or the returned value, changes; a
call outside the precondition is refused. That this holds with `fatal` true as well is the model's choice (log 35). -/
def Obligations.TableCountsAreWrittenAndReadAlone : Prop :=
  (∀ (s : State) (e : Ep) (n : Half),
    (s.bdtConfigured e = true → n.toNat ≤ 64 →
      exec (.bdtSetTxCount e n) s = .next (s.setBdt e { s.bdt e with txCount := n }))
    ∧ (s.bdtConfigured e = true → 64 < n.toNat → exec (.bdtSetTxCount e n) s = .refused .txCountTooLarge)
    ∧ (s.bdtConfigured e = false → exec (.bdtSetTxCount e n) s = .refused .entryNotConfigured))
  ∧ ∀ (s : State) (e : Ep),
    (s.bdtConfigured e = true → exec (.bdtReadRxCount e) s = .next { s with cmdResult := .count (s.bdt e).rxCount })
    ∧ (s.bdtConfigured e = false → exec (.bdtReadRxCount e) s = .refused .entryNotConfigured)

/-! ## The endpoint registers -/

/-- spec/41_endpoint.md R141: type, toggles, stall record, `configured` and both requests; the statuses in force, the
other endpoint and everything else stay. That both toggles become 0 is the spec's own decision, which it asks to be
checked against the peripheral (log 20). That this holds with `fatal` true as well is the model's choice (log 35). -/
def Obligations.EpConfigureWritesTheRecord : Prop :=
  ∀ (s : State) (e : Ep) (ty : EpType) (txInit rxInit : Status),
    exec (.epConfigure e ty txInit rxInit) s =
      .next (s.setEp e ⟨ty, false, false, false, (s.ep e).txStat, (s.ep e).rxStat, some txInit, some rxInit, true⟩)

/-- spec/41_endpoint.md R143 and R144: a status is only requested, on one direction of one endpoint; on an endpoint
that is not configured the command is refused. That this holds with `fatal` true as well is the model's choice (log
35). -/
def Obligations.SetStatusOnlyRequests : Prop :=
  ∀ (s : State) (e : Ep) (st : Status),
    ((s.ep e).configured = true →
      exec (.epSetStatus e .tx st) s = .next (s.setEp e { s.ep e with txStatReq := some st })
      ∧ exec (.epSetStatus e .rx st) s = .next (s.setEp e { s.ep e with rxStatReq := some st }))
    ∧ ((s.ep e).configured = false → ∀ d,
        exec (.epSetStatus e d st) s = .refused .endpointNotConfigured
        ∧ exec (.epToggle e d) s = .refused .endpointNotConfigured)

/-- spec/41_endpoint.md R146: one toggle flips at once, nothing else changes, and a second call restores it; the
endpoint must be configured. That this holds with `fatal` true as well is the model's choice (log 35). -/
def Obligations.ToggleFlipsOneBit : Prop :=
  ∀ (s : State) (e : Ep),
    ((s.ep e).configured = true →
      exec (.epToggle e .tx) s = .next (s.setEp e { s.ep e with txToggle := !(s.ep e).txToggle })
      ∧ exec (.epToggle e .rx) s = .next (s.setEp e { s.ep e with rxToggle := !(s.ep e).rxToggle })
      ∧ ∀ d, ∃ t, exec (.epToggle e d) s = .next t ∧ exec (.epToggle e d) t = .next s)
    ∧ ((s.ep e).configured = false → ∀ d, exec (.epToggle e d) s = .refused .endpointNotConfigured)

/-! ## The bridge -/

/-- spec/45_bridge.md R243: the snapshot W1, one byte per W2, and the publish W3. That the operation is its first
micro-step and the others are the application's turns is the model's reading (log 14). -/
def Obligations.BrWriteSnapshotsStoresAndPublishes : Prop :=
  (∀ (s : State) (bytes : List Byte), s.appOp = none →
    exec (.brWrite bytes) s = .next { s with appOp := some ⟨.write, s.txrb.head, s.txrb.tail,
        min bytes.length (s.params.txCap - (s.txrb.head - s.txrb.tail).toNat), 0, bytes⟩ })
  ∧ (∀ (s : State) (op : AppOp) (b : Byte), s.appOp = some op → op.kind = .write → op.i < op.k →
      op.bytes[op.i]? = some b →
      ∃ t, appMicroStep s = .next t
        ∧ t = { s with txrb := { s.txrb with buf := t.txrb.buf }, appOp := some { op with i := op.i + 1 } }
        ∧ ∀ j, t.txSlot j
            = if j = (op.h + BitVec.ofNat 16 op.i).toNat % s.params.txCap then b else s.txSlot j)
  ∧ ∀ (s : State) (op : AppOp), s.appOp = some op → op.kind = .write → op.k ≤ op.i →
      appMicroStep s = .next { s with
        txrb := { s.txrb with head := op.h + BitVec.ofNat 16 op.k }, appOp := none, appResult := .accepted op.k }

/-- spec/45_bridge.md R247: the snapshot R1, one byte per R2, and the publish R3. That the operation is its first
micro-step and the others are the application's turns is the model's reading (log 14). -/
def Obligations.BrReadSnapshotsLoadsAndPublishes : Prop :=
  (∀ (s : State) (m : Nat), s.appOp = none →
    exec (.brRead m) s = .next { s with appOp := some ⟨.read, s.rxrb.head, s.rxrb.tail,
        min m (s.rxrb.head - s.rxrb.tail).toNat, 0, []⟩ })
  ∧ (∀ (s : State) (op : AppOp), s.appOp = some op → op.kind = .read → op.i < op.k →
      appMicroStep s = .next { s with appOp := some { op with
        i := op.i + 1
        bytes := op.bytes ++ [s.rxSlot ((op.t + BitVec.ofNat 16 op.i).toNat % s.params.rxCap)] } })
  ∧ ∀ (s : State) (op : AppOp), s.appOp = some op → op.kind = .read → op.k ≤ op.i →
      appMicroStep s = .next { s with
        rxrb := { s.rxrb with tail := op.t + BitVec.ofNat 16 op.k }, appOp := none
        appResult := .filled op.k op.bytes }

/-- spec/20_memory.md R88: with no operation in progress every bridge operation runs, in every `devState`, configured or
not (spec/45_bridge.md R241); a second one is refused. -/
def Obligations.SecondBridgeOperationIsRefused : Prop :=
  ∀ (i : Instr) (s : State), isBridgeOp i = true →
    (s.appOp = none → ∃ t, exec i s = .next t) ∧ (s.appOp ≠ none → exec i s = .refused .bridgeBusy)

/-- spec/45_bridge.md R243, R244 and spec/20_memory.md R79, R80: a whole `BR.WRITE` puts the accepted bytes behind those
the TX ring held, in order, takes no more than there is space for, and changes nothing else. -/
def Obligations.WholeWriteAppendsTheAcceptedBytes : Prop :=
  ∀ (s : State) (bytes : List Byte), s.appOp = none → Params.capOk s.params.txCap = true →
    s.txrb.count ≤ s.params.txCap →
    let k := min bytes.length (s.params.txCap - s.txrb.count)
    ∃ t, wholeWrite bytes s = .next t
      ∧ t = { s with
          txrb := { buf := t.txrb.buf, head := s.txrb.head + BitVec.ofNat 16 k, tail := s.txrb.tail }
          appResult := .accepted k }
      ∧ t.txContents = s.txContents ++ bytes.take k
      ∧ t.txrb.count = s.txrb.count + k

/-- spec/45_bridge.md R247 and spec/20_memory.md R80: a whole `BR.READ` answers the oldest bytes of the RX ring, in order,
takes exactly those out, and changes nothing else. -/
def Obligations.WholeReadTakesTheOldestBytes : Prop :=
  ∀ (s : State) (m : Nat), s.appOp = none →
    let k := min m s.rxrb.count
    ∃ t, wholeRead m s = .next t
      ∧ t = { s with
          rxrb := { s.rxrb with tail := s.rxrb.tail + BitVec.ofNat 16 k }
          appResult := .filled k (s.rxContents.take k) }
      ∧ t.rxContents = s.rxContents.drop k

/-- spec/45_bridge.md R250, R251, R252, R254: the three queries return and change no state; the kick sets its flag. -/
def Obligations.QueriesReturnAndKickRaisesItsFlag : Prop :=
  ∀ s : State, s.appOp = none →
    exec .brAvail s = .next { s with appResult := .number (s.rxrb.head - s.rxrb.tail).toNat }
    ∧ exec .brSpace s
        = .next { s with appResult := .number (s.params.txCap - (s.txrb.head - s.txrb.tail).toNat) }
    ∧ exec .brOverrun s = .next { s with appResult := .number s.overrunCount.toNat }
    ∧ exec .brKick s = .next { s with istat := { s.istat with kick := true } }

/-- spec/60_exceptions.md R310: application context writes `TXRB.head`, `TXRB.buf`, `RXRB.tail`, `ISTAT.kick` and `appOp`
(and the result the caller sees), and nothing else. -/
def Obligations.ApplicationTouchesOnlyItsOwn : Prop :=
  ∀ (s t : State), ((∃ i, isBridgeOp i = true ∧ exec i s = .next t) ∨ appMicroStep s = .next t) →
    t = { s with
      txrb := { buf := t.txrb.buf, head := t.txrb.head, tail := s.txrb.tail }
      rxrb := { buf := s.rxrb.buf, head := s.rxrb.head, tail := t.rxrb.tail }
      istat := { s.istat with kick := t.istat.kick }
      appOp := t.appOp
      appResult := t.appResult }
    ∧ (s.istat.kick = true → t.istat.kick = true)

/-- spec/10_state.md R45: each ring index has one writer besides `INIT`: the EP1 OUT handler, `BR.READ`, `BR.WRITE`, the EP1
IN and KICK handlers (each handler run on its own or as the event of a `DISPATCH`). -/
def Obligations.EachRingIndexHasOneWriter : Prop :=
  (∀ s t : State, exec .init s = .next t →
    t.rxrb.head = 0 ∧ t.rxrb.tail = 0 ∧ t.txrb.head = 0 ∧ t.txrb.tail = 0)
  ∧ (∀ (i : Instr) (s t : State), exec i s = .next t →
    (t.rxrb.head ≠ s.rxrb.head → i = .init ∨ i = .bulkOutDone ∨ i = .evEp1Out ∨ ∃ w, i = .dispatch w)
    ∧ (t.rxrb.tail ≠ s.rxrb.tail → i = .init)
    ∧ (t.txrb.head ≠ s.txrb.head → i = .init)
    ∧ (t.txrb.tail ≠ s.txrb.tail →
        i = .init ∨ i = .bulkInDone ∨ i = .bulkKick ∨ i = .evEp1In ∨ i = .evKick ∨ ∃ w, i = .dispatch w))
  ∧ ∀ s t : State, appMicroStep s = .next t →
    t.rxrb.head = s.rxrb.head ∧ t.txrb.tail = s.txrb.tail
    ∧ (t.rxrb.tail ≠ s.rxrb.tail → ∃ op, s.appOp = some op ∧ op.kind = .read)
    ∧ (t.txrb.head ≠ s.txrb.head → ∃ op, s.appOp = some op ∧ op.kind = .write)

/-! ## The dispatcher -/

/-- spec/44_dispatcher.md R221: with no invocation running, a raised `irq` and `fatal` false, the entry step copies
the status register and changes nothing else, whatever word selected `DISPATCH`; in particular no flag is cleared by
reading. That the word only selects `DISPATCH`, and that `DISPATCH` as an operation is this one step, is the model's
reading (log 11). -/
def Obligations.DispatchEntersWithASnapshot : Prop :=
  ∀ (s : State) (w : Half), s.fatal = false → s.dispSnap = none → s.istat.irq = true →
    exec (.dispatch w) s = .next { s with dispSnap := some s.istat }

/-- spec/44_dispatcher.md R222: inside an invocation `DISPATCH` handles the event of lowest priority number in the snapshot,
if ISTAT still has it, and goes on with the rest of the snapshot, or ends. A snapshot with no flag ends the
invocation; one with `setup` alone cannot occur and is refused (spec/93_implementation_defined.md F8, log 22). Where
the dispatcher has no step (R220, R221) `DISPATCH` has no effect (the model's choice of meaning, log 11). -/
def Obligations.DispatchHandlesTheFirstEvent : Prop :=
  (∀ (s : State) (snap : Istat) (w : Half), s.fatal = false → s.dispSnap = some snap →
    (∀ e, snap.has e = true → (∀ e', snap.has e' = true → e.priority ≤ e'.priority) →
      exec (.dispatch w) s =
        andThen (if s.istat.has e then exec (handlerOf s.istat.setup e) s else .next s) fun t =>
          .next { t with dispSnap := if (snap.clear e).irq then some (snap.clear e) else none })
    ∧ (snap.irq = false → exec (.dispatch w) s = .next { s with dispSnap := none })
    ∧ (snap.setup = true → (∀ e, snap.has e = false) → exec (.dispatch w) s = .refused .noEventSelected))
  ∧ ∀ (s : State) (w : Half), s.fatal = true ∨ (s.dispSnap = none ∧ s.istat.irq = false) →
      exec (.dispatch w) s = .next s

/-- spec/44_dispatcher.md R235: a handler step clears the flag of its event (for `ctEp0Rx` also `setup`) and no other, and
sets none; `BDT.*`, `EP.*`, `REQ.*` and the bodies of handlers touch no flag. With `fatal` the dispatcher has no step
(R220) and a handler has no effect (the model's choice of meaning, log 12). -/
def Obligations.HandlersClearOnlyTheirFlags : Prop :=
  (∀ (i : Instr) (e : Event) (s t : State), eventOf i = some e → s.fatal = false → exec i s = .next t →
    t.istat = s.istat.clear e)
  ∧ (∀ (i : Instr) (e : Event) (s : State), eventOf i = some e → s.fatal = true → exec i s = .next s)
  ∧ (∀ (i : Instr) (s t : State), eventOf i = none → isLinkOp i = false → i ≠ .init → i ≠ .brKick →
      (∀ w, i ≠ .dispatch w) → exec i s = .next t → t.istat = s.istat)
  ∧ ∀ (f : Istat) (e e' : Event),
      ((f.clear e).has e' = if e' = e then false else f.has e')
      ∧ (f.clear e).setup = if e = .ctEp0Rx then false else f.setup

/-- spec/44_dispatcher.md R224. That the handler run alone clears its flag is the model's choice (log 12); that the
toggles become 0 is the spec's own decision, which it asks to be checked (log 20). -/
def Obligations.EvResetReinitialisesTheDevice : Prop :=
  ∀ s : State, s.fatal = false →
    exec .evReset s = .next { s with
      ct := none
      pendingAddr := none
      ep0 := ⟨.control, false, false, false, s.ep0.txStat, s.ep0.rxStat, some .nak, some .nak, true⟩
      ep1 := ⟨s.ep1.type, false, false, false, .disabled, .disabled, none, none, false⟩
      ep1TxBusy := false
      ep1TxLastLen := 0
      devAddr := 0
      devState := .default
      istat := { s.istat with reset := false } }

/-- spec/44_dispatcher.md R226, R227, R228: SUSPEND moves only Configured, WAKEUP only Suspended; nothing else changes but
the flag. That the handler run alone clears its flag is the model's choice (log 12). -/
def Obligations.SuspendAndWakeupMoveOnlyTheirState : Prop :=
  ∀ s : State, s.fatal = false →
    exec .evSuspend s = .next { s with
      devState := if s.devState = .configured then .suspended else s.devState
      istat := { s.istat with susp := false } }
    ∧ exec .evWakeup s = .next { s with
      devState := if s.devState = .suspended then .configured else s.devState
      istat := { s.istat with wkup := false } }

/-- spec/44_dispatcher.md R229, R230, R231: the three handlers of endpoint 0 perform their bodies, complete whatever the
transfer holds, and clear their flags. That a handler run alone clears its flags is the model's choice (log 12). -/
def Obligations.EndpointZeroHandlersRunTheirBodies : Prop :=
  ∀ s : State, s.fatal = false → s.ep0Ready →
    (∃ t, exec .ctrlInDone s = .next t
      ∧ exec .evEp0In s = .next { t with istat := { s.istat with ctEp0Tx := false } })
    ∧ (∃ t, exec .ctrlSetup s = .next t
      ∧ exec .evEp0Setup s = .next { t with istat := { s.istat with ctEp0Rx := false, setup := false } })
    ∧ ∃ t, exec .ctrlOutDone s = .next t
      ∧ exec .evEp0Out s = .next { t with istat := { s.istat with ctEp0Rx := false, setup := false } }

/-- spec/44_dispatcher.md R232, R233, R234: the three handlers of endpoint 1 perform their bodies, complete, and clear their
flags; with endpoint 1 not configured nothing changes but the flag (spec/43_bulk.md R201). That a handler run alone
clears its flag is the model's choice (log 12). -/
def Obligations.EndpointOneHandlersRunTheirBodies : Prop :=
  ∀ s : State, s.fatal = false →
    (s.ep1Ready →
      (∃ t, exec .bulkOutDone s = .next t
        ∧ exec .evEp1Out s = .next { t with istat := { s.istat with ctEp1Rx := false } })
      ∧ (∃ t, exec .bulkInDone s = .next t
        ∧ exec .evEp1In s = .next { t with istat := { s.istat with ctEp1Tx := false } })
      ∧ ∃ t, exec .bulkKick s = .next t
        ∧ exec .evKick s = .next { t with istat := { s.istat with kick := false } })
    ∧ (s.ep1.configured = false →
      exec .evEp1Out s = .next { s with istat := { s.istat with ctEp1Rx := false } }
      ∧ exec .evEp1In s = .next { s with istat := { s.istat with ctEp1Tx := false } }
      ∧ exec .evKick s = .next { s with istat := { s.istat with kick := false } })

/-! ## The control endpoint -/

/-- spec/42_control.md R162: `CTRL.SETUP` aborts what was in flight, sets both toggles to 1, and performs the request
the received packet selects; a packet of another length stalls. That this holds with `fatal` true as well is the
model's choice (log 35). On an endpoint of the other type it is the model's choice too (log 31). -/
def Obligations.SetupAbortsAndPerformsTheRequest : Prop :=
  ∀ s : State, s.ep0Ready →
    (s.bdt0.rxCount ≠ 8 → exec .ctrlSetup s = .next s.aborted.stalledEp0)
    ∧ (s.bdt0.rxCount = 8 →
        ∃ i t, decodeExact .S (s.pmaBytes s.bdt0.rxOffset.toNat 8) = .ok i
          ∧ exec i s.aborted = .next t ∧ exec .ctrlSetup s = .next t)

/-- spec/42_control.md R188 and R176: the EP0 IN completion flips the toggle and sends the next packet of a data
stage, or a terminating zero-length packet, or waits for the host's status packet; at the end of a status stage it
applies a staged address; in every other state it changes nothing more. That this holds with `fatal` true as well is
the model's choice (log 35). On an endpoint of the other type it is the model's choice too (log 31). -/
def Obligations.InCompletionAdvancesTheTransfer : Prop :=
  ∀ s : State, s.ep0Ready →
    let u : State := { s with ep0 := { s.ep0 with txToggle := !s.ep0.txToggle } }
    (s.ct = none → exec .ctrlInDone s = .next u)
    ∧ ∀ c, s.ct = some c →
      (c.phase = .dataStage → c.stage = .dataIn →
        (c.pos + c.lastLen < c.data.length →
          ∃ t, exec .ctrlInDone s = .next t ∧ ChunkArmed { c with pos := c.pos + c.lastLen } u t)
        ∧ (c.data.length ≤ c.pos + c.lastLen → c.lastLen = 64 → c.data.length < c.length.toNat →
          exec .ctrlInDone s = .next { u with
            ct := some { c with pos := c.pos + c.lastLen, lastLen := 0 }
            bdt0 := { s.bdt0 with txCount := 0 }
            ep0 := { u.ep0 with txStatReq := some .valid } })
        ∧ (c.data.length ≤ c.pos + c.lastLen → ¬ (c.lastLen = 64 ∧ c.data.length < c.length.toNat) →
          exec .ctrlInDone s = .next { u with
            ct := some { c with pos := c.pos + c.lastLen, phase := .statusStage } }))
      ∧ (c.phase = .statusStage → c.stage ≠ .dataIn →
          (s.pendingAddr = none → exec .ctrlInDone s = .next { u with ct := none })
          ∧ ∀ a, s.pendingAddr = some a →
              exec .ctrlInDone s = .next { u with
                ct := none
                devAddr := a
                devState := if a ≠ 0 then .addressed else s.devState
                pendingAddr := none })
      ∧ (¬ (c.phase = .dataStage ∧ c.stage = .dataIn) → ¬ (c.phase = .statusStage ∧ c.stage ≠ .dataIn) →
          exec .ctrlInDone s = .next u)

/-- spec/42_control.md R190 and R181: the EP0 OUT completion flips the toggle and takes a line coding of 7 bytes (any
other length stalls), or ends a data-in transfer, withdrawing what is armed; in every other state it changes nothing
more. That this holds with `fatal` true as well is the model's choice (log 35). On an endpoint of the other type it is
the model's choice too (log 31). -/
def Obligations.OutCompletionEndsOrTakesLineCoding : Prop :=
  ∀ s : State, s.ep0Ready →
    let u : State := { s with ep0 := { s.ep0 with rxToggle := !s.ep0.rxToggle } }
    (s.ct = none → exec .ctrlOutDone s = .next u)
    ∧ ∀ c, s.ct = some c →
      (c.phase = .dataStage → c.stage = .dataOut →
        (s.bdt0.rxCount ≠ 7 → exec .ctrlOutDone s = .next u.stalledEp0)
        ∧ (s.bdt0.rxCount = 7 →
            let b := fun i => s.pmaByte (s.bdt0.rxOffset.toNat + i)
            exec .ctrlOutDone s = .next (State.statusInArmed c
              { u with lineCoding := ⟨(b 3 ++ b 2) ++ (b 1 ++ b 0), b 4, b 5, b 6⟩ })))
      ∧ (c.stage = .dataIn → c.phase ≠ .setup →
          exec .ctrlOutDone s = .next { u with ep0 := { u.ep0 with txStatReq := some .nak }, ct := none })
      ∧ (¬ (c.phase = .dataStage ∧ c.stage = .dataOut) → ¬ (c.stage = .dataIn ∧ c.phase ≠ .setup) →
          exec .ctrlOutDone s = .next u)

/-- spec/41_endpoint.md R144: the bodies and requests of endpoint 0 call commands on it, so with endpoint 0 not
configured each of them is refused, alone and as an event handler. That this holds with `fatal` true as well is the
model's choice (log 35). -/
def Obligations.EndpointZeroWorkNeedsItConfigured : Prop :=
  ∀ (i : Instr) (s : State), s.ep0.configured = false →
    (isEp0Work i = true → ∃ r, exec i s = .refused r)
    ∧ (s.fatal = false → (i = .evEp0In ∨ i = .evEp0Setup ∨ i = .evEp0Out) → ∃ r, exec i s = .refused r)

/-- spec/42_control.md R170 and R183: GET_STATUS replies two zero bytes, GET_LINE_CODING the 7 bytes of the line
coding, by `StartDataIn` (R163). That the request run on its own makes the transfer object from its operands is the
model's choice (log 13). That this holds with `fatal` true as well is the model's choice (log 35). -/
def Obligations.StatusAndLineCodingAreReplied : Prop :=
  ∀ (s : State) (v i l : Half), s.ep0Ready →
    (∃ t, exec (.reqGetStatus v i l) s = .next t
      ∧ DataInStarted [0x00, 0x00] ⟨0x80, 0x00, v, i, l, .deviceToHost, .setup, .noData, [], 0, 0⟩ s t)
    ∧ ∃ t, exec (.reqGetLineCoding v i l) s = .next t
      ∧ DataInStarted
          [s.lineCoding.baudRate.extractLsb' 0 8, s.lineCoding.baudRate.extractLsb' 8 8,
            s.lineCoding.baudRate.extractLsb' 16 8, s.lineCoding.baudRate.extractLsb' 24 8,
            s.lineCoding.stopBits, s.lineCoding.parity, s.lineCoding.dataBits]
          ⟨0xA1, 0x21, v, i, l, .deviceToHost, .setup, .noData, [], 0, 0⟩ s t

/-- spec/42_control.md R174: GET_DESCRIPTOR serves the descriptor set's bytes verbatim by `StartDataIn` (R163), or
stalls. That the request run on its own makes the transfer object from its operands is the model's choice (log 13).
That this holds with `fatal` true as well is the model's choice (log 35). -/
def Obligations.DescriptorsAreServedOrStalled : Prop :=
  ∀ (s : State) (v i l : Half), s.ep0Ready →
    (∀ d, s.params.descriptor (v.extractLsb' 8 8) (v.extractLsb' 0 8) = some d →
      ∃ t, exec (.reqGetDescriptor v i l) s = .next t
        ∧ DataInStarted d ⟨0x80, 0x06, v, i, l, .deviceToHost, .setup, .noData, [], 0, 0⟩ s t)
    ∧ (s.params.descriptor (v.extractLsb' 8 8) (v.extractLsb' 0 8) = none →
        exec (.reqGetDescriptor v i l) s = .next s.stalledEp0)

/-- spec/42_control.md R172: SET_ADDRESS stages the address and arms the status packet, or stalls; `devAddr` and
`devState` do not change. That the request run on its own makes the transfer object from its operands is the model's
choice (log 13). That this holds with `fatal` true as well is the model's choice (log 35). -/
def Obligations.SetAddressStagesOrStalls : Prop :=
  ∀ (s : State) (v i l : Half), s.ep0Ready →
    let bad := l ≠ 0 ∨ 127 < v.toNat ∨ (s.devState ≠ .default ∧ s.devState ≠ .addressed)
      ∨ (v = 0 ∧ s.devState = .addressed)
    (bad → exec (.reqSetAddress v i l) s = .next s.stalledEp0)
    ∧ (¬ bad → exec (.reqSetAddress v i l) s = .next (State.statusInArmed
        ⟨0x00, 0x05, v, i, l, .hostToDevice, .setup, .noData, [], 0, 0⟩
        { s with pendingAddr := some (v.setWidth 7) }))

/-- spec/42_control.md R178: SET_CONFIGURATION moves to Configured, initialises endpoint 1 and arms the status packet,
or stalls. That the request run on its own makes the transfer object from its operands is the model's choice (log 13).
That both toggles become 0 is the spec's own decision, which it asks to be checked against the peripheral (log 20).
That this holds with `fatal` true as well is the model's choice (log 35). -/
def Obligations.SetConfigurationEnablesEndpointOne : Prop :=
  ∀ (s : State) (v i l : Half), s.ep0Ready →
    let bad := l ≠ 0 ∨ v.extractLsb' 8 8 ≠ 0 ∨ v.extractLsb' 0 8 ≠ s.params.configValue
      ∨ (s.devState ≠ .addressed ∧ s.devState ≠ .configured)
    (bad → exec (.reqSetConfiguration v i l) s = .next s.stalledEp0)
    ∧ (¬ bad → exec (.reqSetConfiguration v i l) s = .next (State.statusInArmed
        ⟨0x00, 0x09, v, i, l, .hostToDevice, .setup, .noData, [], 0, 0⟩
        { s with
          devState := .configured
          ep1 := ⟨.bulk, false, false, false, s.ep1.txStat, s.ep1.rxStat, some .nak, some .valid, true⟩
          ep1TxBusy := false
          ep1TxLastLen := 0 }))

/-- spec/42_control.md R180: SET_LINE_CODING of 7 bytes waits for its payload with rx armed, any other length stalls;
`lineCoding` is not touched. That the request run on its own makes the transfer object from its operands is the
model's choice (log 13). That this holds with `fatal` true as well is the model's choice (log 35). -/
def Obligations.SetLineCodingWaitsForItsPayload : Prop :=
  ∀ (s : State) (v i l : Half), s.ep0Ready →
    (l = 7 → exec (.reqSetLineCoding v i l) s = .next { s with
      ct := some ⟨0x21, 0x20, v, i, l, .hostToDevice, .dataStage, .dataOut, [], 0, 0⟩
      ep0 := { s.ep0 with rxStatReq := some .valid } })
    ∧ (l ≠ 7 → exec (.reqSetLineCoding v i l) s = .next s.stalledEp0)

/-- spec/42_control.md R185: SET_CONTROL_LINE_STATE is acknowledged and recorded nowhere; a length stalls it. That the
request run on its own makes the transfer object from its operands is the model's choice (log 13). That this holds
with `fatal` true as well is the model's choice (log 35). -/
def Obligations.SetControlLineStateIsAcknowledged : Prop :=
  ∀ (s : State) (v i l : Half), s.ep0Ready →
    (l = 0 → exec (.reqSetControlLineState v i l) s = .next (State.statusInArmed
      ⟨0x21, 0x22, v, i, l, .hostToDevice, .setup, .noData, [], 0, 0⟩ s))
    ∧ (l ≠ 0 → exec (.reqSetControlLineState v i l) s = .next s.stalledEp0)

/-- spec/42_control.md R187 and R166: an unsupported request stalls endpoint 0 and ends the transfer, and nothing
else. That this holds with `fatal` true as well is the model's choice (log 35). On an endpoint of the other type it is
the model's choice too (log 31). -/
def Obligations.UnsupportedRequestsStallEndpointZero : Prop :=
  ∀ (s : State) (rt rq : Byte) (v i l : Half), s.ep0.configured = true →
    exec (.reqUnsupported rt rq v i l) s = .next { s with
      ep0 := { s.ep0 with txStatReq := some .stall, rxStatReq := some .stall, stalled := true }
      ct := none
      pendingAddr := none }

/-! ## The bulk endpoint -/

/-- spec/43_bulk.md R203, R201 and spec/60_exceptions.md R303: the received bytes that fit go behind those the RX ring
holds, in order; the rest is dropped and counted, saturating; the toggle flips and the endpoint is armed again. That
this holds with `fatal` true as well is the model's choice (log 35). On an endpoint of the other type it is the
model's choice too (log 31). -/
def Obligations.BulkOutKeepsWhatFitsAndCountsTheRest : Prop :=
  (∀ s : State, s.ep1Ready → Params.capOk s.params.rxCap = true → s.rxrb.count ≤ s.params.rxCap →
    let n := s.bdt1.rxCount.toNat
    let k := min n (s.params.rxCap - s.rxrb.count)
    ∃ t, exec .bulkOutDone s = .next t
      ∧ t = { s with
          rxrb := { buf := t.rxrb.buf, head := s.rxrb.head + BitVec.ofNat 16 k, tail := s.rxrb.tail }
          overrunCount := t.overrunCount
          ep1 := { s.ep1 with rxToggle := !s.ep1.rxToggle, rxStatReq := some .valid } }
      ∧ t.rxContents = s.rxContents ++ (s.pmaBytes s.bdt1.rxOffset.toNat n).take k
      ∧ t.rxrb.count = s.rxrb.count + k
      ∧ t.overrunCount.toNat = min (s.overrunCount.toNat + (n - k)) (2 ^ 32 - 1))
  ∧ ∀ s : State, s.ep1.configured = false → exec .bulkOutDone s = .next s

/-- spec/43_bulk.md R206, R205, R201: an EP1 IN completion flips the toggle, ends the busy time and tries to start the
next packet. That this holds with `fatal` true as well is the model's choice (log 35). On an endpoint of the other
type it is the model's choice too (log 31). -/
def Obligations.BulkInCompletionSendsTheNextPacket : Prop :=
  (∀ s : State, s.ep1Ready →
    ∃ t, exec .bulkInDone s = .next t
      ∧ InTried true { s with ep1 := { s.ep1 with txToggle := !s.ep1.txToggle }, ep1TxBusy := false } t)
  ∧ ∀ s : State, s.ep1.configured = false → exec .bulkInDone s = .next s

/-- spec/43_bulk.md R208, R205, R201: a kick starts a packet only on a configured idle endpoint; no toggle changes.
That this holds with `fatal` true as well is the model's choice (log 35). On an endpoint of the other type it is the
model's choice too (log 31). -/
def Obligations.BulkKickStartsAnIdleEndpoint : Prop :=
  (∀ s : State, s.ep1Ready → s.ep1TxBusy = false → ∃ t, exec .bulkKick s = .next t ∧ InTried false s t)
  ∧ ∀ s : State, s.ep1.configured = false ∨ s.ep1TxBusy = true → exec .bulkKick s = .next s

/-! ## The link -/

/-- spec/46_bus_link.md R260, R274, R275: a link step first puts every requested status in force, so a status set by
`EP.SETSTATUS` holds after the next one; SUSPEND and WAKEUP then set their flag and nothing else (that they too
apply the requests first is R260's "every link step", log 28). -/
def Obligations.LinkStepsApplyRequestsFirst : Prop :=
  (∀ s : State, applyRequests s = { s with
    ep0 := { s.ep0 with
      txStat := s.ep0.txStatReq.getD s.ep0.txStat, rxStat := s.ep0.rxStatReq.getD s.ep0.rxStat
      txStatReq := none, rxStatReq := none }
    ep1 := { s.ep1 with
      txStat := s.ep1.txStatReq.getD s.ep1.txStat, rxStat := s.ep1.rxStatReq.getD s.ep1.rxStat
      txStatReq := none, rxStatReq := none } })
  ∧ (∀ (s t : State) (e : Ep) (d : Dir) (st : Status), exec (.epSetStatus e d st) s = .next t →
      ((applyRequests t).ep e).stat d = st)
  ∧ ∀ s : State, s.fatal = false →
      exec .busSuspend s = .next { applyRequests s with
        istat := { s.istat with susp := true }, busResp := .silent }
      ∧ exec .busWakeup s = .next { applyRequests s with
        istat := { s.istat with wkup := true }, busResp := .silent }

/-- spec/46_bus_link.md R264: a SETUP of 8 bytes addressed to endpoint 0 is stored and acknowledged whatever the status but
Disabled, forces both directions to Nak and sets `ctEp0Rx` and `setup`; any other SETUP gets no response. That one which
R262 ends (endpoint 2 to 15, an entry not laid out) still applies the requests is the model's choice (log 28). -/
def Obligations.BusSetupIsTakenWheneverEnabled : Prop :=
  ∀ (s : State) (addr : BitVec 7) (endp : BitVec 4) (data : List Byte), s.fatal = false →
    let r := applyRequests s
    let taken := addr = s.devAddr ∧ endp = 0 ∧ s.bdtConfigured0 = true ∧ data.length = 8
      ∧ r.ep0.rxStat ≠ .disabled ∧ 8 ≤ s.bdt0.rxMaxCount.toNat
    (taken → entryOk s.params s.bdt0 →
      ∃ t, exec (.busSetup addr endp data) s = .next t
        ∧ t = { r with
            bdt0 := { s.bdt0 with rxCount := 8 }
            ep0 := { r.ep0 with txStat := .nak, rxStat := .nak }
            istat := { s.istat with ctEp0Rx := true, setup := true }
            busResp := .handshake .ack
            pma := t.pma }
        ∧ t.pmaBytes s.bdt0.rxOffset.toNat 8 = data
        ∧ SamePmaOutside s.bdt0.rxOffset.toNat 8 s t)
    ∧ (¬ taken → exec (.busSetup addr endp data) s = .next { r with busResp := .silent })

/-- spec/46_bus_link.md R266, R267, R263: what an OUT to an existing endpoint is answered in each status, and what a packet
taken changes: its bytes in the receive region, its count, Nak, the flag; nothing else, and no toggle. -/
def Obligations.BusOutIsAnsweredByStatus : Prop :=
  ∀ (s : State) (addr : BitVec 7) (endp : BitVec 4) (e : Ep) (tog : Bool) (data : List Byte),
    s.fatal = false → addr = s.devAddr → endp.setWidth 8 = e.number → s.bdtConfigured e = true →
    let r := applyRequests s
    ((r.ep e).rxStat = .disabled → exec (.busOut addr endp tog data) s = .next { r with busResp := .silent })
    ∧ ((r.ep e).rxStat = .stall →
        exec (.busOut addr endp tog data) s = .next { r with busResp := .handshake .stall })
    ∧ ((r.ep e).rxStat = .nak →
        exec (.busOut addr endp tog data) s = .next { r with busResp := .handshake .nak })
    ∧ ((r.ep e).rxStat = .valid →
        ((s.bdt e).rxMaxCount.toNat < data.length →
          exec (.busOut addr endp tog data) s = .next { r with busResp := .silent })
        ∧ (data.length ≤ (s.bdt e).rxMaxCount.toNat → tog ≠ (s.ep e).rxToggle →
          exec (.busOut addr endp tog data) s = .next { r with busResp := .handshake .ack })
        ∧ (data.length ≤ (s.bdt e).rxMaxCount.toNat → tog = (s.ep e).rxToggle → entryOk s.params (s.bdt e) →
          ∃ t, exec (.busOut addr endp tog data) s = .next t
            ∧ t = { (r.setBdt e { s.bdt e with rxCount := BitVec.ofNat 16 data.length }).setEp e
                  { r.ep e with rxStat := .nak } with
                istat := match e with
                  | .ep0 => { s.istat with ctEp0Rx := true }
                  | .ep1 => { s.istat with ctEp1Rx := true }
                busResp := .handshake .ack
                pma := t.pma
                draws := t.draws }
            ∧ t.pmaBytes (s.bdt e).rxOffset.toNat data.length = data
            ∧ SamePmaOutside (s.bdt e).rxOffset.toNat data.length s t))

/-- spec/46_bus_link.md R269, R263: what an IN to an existing endpoint is answered in each status: the armed bytes with the
device's toggle; with the host's ACK Nak and the flag, without it no change, so the next IN is answered the same. -/
def Obligations.BusInSendsTheArmedPacket : Prop :=
  ∀ (s : State) (addr : BitVec 7) (endp : BitVec 4) (e : Ep),
    s.fatal = false → addr = s.devAddr → endp.setWidth 8 = e.number → s.bdtConfigured e = true →
    let r := applyRequests s
    let d := s.pmaBytes (s.bdt e).txOffset.toNat (s.bdt e).txCount.toNat
    (∀ ack,
      ((r.ep e).txStat = .disabled → exec (.busIn addr endp ack) s = .next { r with busResp := .silent })
      ∧ ((r.ep e).txStat = .stall → exec (.busIn addr endp ack) s = .next { r with busResp := .handshake .stall })
      ∧ ((r.ep e).txStat = .nak → exec (.busIn addr endp ack) s = .next { r with busResp := .handshake .nak }))
    ∧ ((r.ep e).txStat = .valid → entryOk s.params (s.bdt e) →
        exec (.busIn addr endp true) s = .next { r.setEp e { r.ep e with txStat := .nak } with
          istat := match e with
            | .ep0 => { s.istat with ctEp0Tx := true }
            | .ep1 => { s.istat with ctEp1Tx := true }
          busResp := .packet (s.ep e).txToggle d true }
        ∧ exec (.busIn addr endp false) s = .next { r with busResp := .packet (s.ep e).txToggle d false })

/-- spec/46_bus_link.md R261, R262: a token to another address, to an endpoint that does not exist or is not laid out gets
no response and only applies the requests; with `fatal` no link step changes any state or is answered. -/
def Obligations.TokensToNobodyAreNotAnswered : Prop :=
  (∀ (i : Instr) (s : State) (addr : BitVec 7) (endp : BitVec 4), s.fatal = false →
    (addr ≠ s.devAddr ∨ 2 ≤ endp.toNat ∨ (endp = 0 ∧ s.bdtConfigured0 = false)
      ∨ (endp = 1 ∧ s.bdtConfigured1 = false)) →
    ((∃ data, i = .busSetup addr endp data) ∨ (∃ tog data, i = .busOut addr endp tog data)
      ∨ ∃ ack, i = .busIn addr endp ack) →
    exec i s = .next { applyRequests s with busResp := .silent })
  ∧ ∀ (i : Instr) (s : State), isLinkOp i = true → s.fatal = true → exec i s = .next { s with busResp := .silent }

/-- spec/46_bus_link.md R272: a bus reset disables both endpoints, clears the address and the five completion flags and
sets `reset`; everything else is left for the handler. -/
def Obligations.BusResetDisablesTheEndpoints : Prop :=
  ∀ s : State, s.fatal = false →
    exec .busReset s = .next { s with
      ep0 := { s.ep0 with
        txStat := .disabled, rxStat := .disabled, txStatReq := none, rxStatReq := none, configured := false }
      ep1 := { s.ep1 with
        txStat := .disabled, rxStat := .disabled, txStatReq := none, rxStatReq := none, configured := false }
      devAddr := 0
      istat := { s.istat with
        ctEp0Rx := false, ctEp0Tx := false, ctEp1Rx := false, ctEp1Tx := false, setup := false, reset := true }
      busResp := .silent }

/-- spec/46_bus_link.md R276: what no link step writes; that it sets a completion flag only with an ACK; and that it
writes packet memory only inside a receive region. -/
def Obligations.LinkWritesOnlyWhatItMay : Prop :=
  ∀ (i : Instr) (s t : State), isLinkOp i = true → exec i s = .next t →
    t = { s with
      ep0 := { s.ep0 with
        txStat := t.ep0.txStat, rxStat := t.ep0.rxStat, txStatReq := t.ep0.txStatReq
        rxStatReq := t.ep0.rxStatReq, configured := t.ep0.configured }
      ep1 := { s.ep1 with
        txStat := t.ep1.txStat, rxStat := t.ep1.rxStat, txStatReq := t.ep1.txStatReq
        rxStatReq := t.ep1.rxStatReq, configured := t.ep1.configured }
      bdt0 := { s.bdt0 with rxCount := t.bdt0.rxCount }
      bdt1 := { s.bdt1 with rxCount := t.bdt1.rxCount }
      devAddr := t.devAddr
      istat := t.istat
      pma := t.pma
      draws := t.draws
      busResp := t.busResp }
    ∧ (s.istat.reset = true → t.istat.reset = true) ∧ (s.istat.susp = true → t.istat.susp = true)
    ∧ (s.istat.wkup = true → t.istat.wkup = true) ∧ t.istat.kick = s.istat.kick
    ∧ ((s.istat.ctEp0Rx = false ∧ t.istat.ctEp0Rx = true) ∨ (s.istat.ctEp1Rx = false ∧ t.istat.ctEp1Rx = true) →
        t.busResp = .handshake .ack)
    ∧ ((s.istat.ctEp0Tx = false ∧ t.istat.ctEp0Tx = true) ∨ (s.istat.ctEp1Tx = false ∧ t.istat.ctEp1Tx = true) →
        ∃ tog d, t.busResp = .packet tog d true)
    ∧ (t.pma ≠ s.pma →
        ∃ (e : Ep) (n : Nat), t.busResp = .handshake .ack ∧ n ≤ (s.bdt e).rxMaxCount.toNat
          ∧ SamePmaOutside (s.bdt e).rxOffset.toNat n s t)

/-! ## The whole machine -/

/-- Every step keeps the three memories in canonical form (log 8). -/
def Obligations.EveryStepKeepsMemoriesCanonical : Prop :=
  ∀ s t : State, s.memoriesCanonical = true → step s = .next t → t.memoriesCanonical = true

/-- spec/10_state.md R51 and what it rests on: every step of the four agents keeps the invariant (clause (f) weakened by
the window of log 18). -/
def Obligations.AgentStepsKeepTheInvariant : Prop :=
  ∀ s t : State, s.Invariant → s.nextIsAgentStep = true → step s = .next t → t.Invariant

/-- spec/93_implementation_defined.md section 2: the refusals F1, F2, F3, F4, F8 are unreachable. From the invariant a step of an
agent never faults, and is refused only for undecodable bytes, a second bridge operation or a second `INIT`. -/
def Obligations.AgentStepsStopOnlyOnBadRequests : Prop :=
  ∀ s : State, s.Invariant → s.nextIsAgentStep = true →
    (∃ t, step s = .next t) ∨ (∃ e, step s = .refused (.undecodable e))
    ∨ step s = .refused .bridgeBusy ∨ step s = .refused .secondInit

/-- spec/44_dispatcher.md R222, spec/60_exceptions.md R308: an invocation, run with no other agent between, ends; if it was entered
afresh every flag is handled. -/
def Obligations.AnInvocationHandlesEveryFlag : Prop :=
  ∀ s : State, s.Invariant →
    ∃ t, invocation s = .next t ∧ t.Invariant ∧ t.dispSnap = none
      ∧ (s.dispSnap = none → t.istat.irq = false)
      ∧ t.inputs = s.inputs ∧ t.appOp = s.appOp

/-- spec/43_bulk.md R209 (a): a packet the link takes on endpoint 1 comes out of `BR.READ` byte for byte, once the dispatcher
has run, if the RX ring was empty and has room for it. -/
def Obligations.ReceivedPacketReachesTheReader : Prop :=
  ∀ (s : State) (data : List Byte), s.Invariant → s.istat.irq = false → s.dispSnap = none → s.appOp = none →
    (applyRequests s).ep1.rxStat = .valid → data.length ≤ s.bdt1.rxMaxCount.toNat →
    s.rxrb.count = 0 → data.length ≤ s.params.rxCap →
    ∃ t1 t2 t3, exec (.busOut s.devAddr 1 s.ep1.rxToggle data) s = .next t1
      ∧ t1.busResp = .handshake .ack
      ∧ invocation t1 = .next t2
      ∧ wholeRead data.length t2 = .next t3
      ∧ t3.appResult = .filled data.length data
      ∧ t3.overrunCount = s.overrunCount ∧ t3.rxrb.count = 0

/-- spec/43_bulk.md R209 (c), R205 and spec/45_bridge.md R254: bytes written and kicked on an idle configured endpoint 1 with
an empty ring are in the packet the host's next IN gets, at most 64 of them. -/
def Obligations.KickedBytesReachTheHost : Prop :=
  ∀ (s : State) (bytes : List Byte), s.Invariant → s.istat.irq = false → s.dispSnap = none → s.appOp = none →
    s.ep1.configured = true → s.ep1TxBusy = false → s.txrb.count = 0 →
    1 ≤ bytes.length → bytes.length ≤ s.params.txCap →
    ∃ t1 t2 t3 t4, wholeWrite bytes s = .next t1
      ∧ t1.appResult = .accepted bytes.length
      ∧ exec .brKick t1 = .next t2
      ∧ invocation t2 = .next t3
      ∧ exec (.busIn s.devAddr 1 true) t3 = .next t4
      ∧ t4.busResp = .packet s.ep1.txToggle (bytes.take 64) true
      ∧ t4.txContents = bytes.drop 64

/-- spec/10_state.md R23: who moves `devState`, and that the only way back to an earlier state is the RESET handler: a staged
address is applied only in Default or Addressed (in states that keep `pendingOk`). -/
def Obligations.DeviceStateMovesOnlyAsNamed : Prop :=
  ∀ (i : Instr) (s t : State), exec i s = .next t →
    devStateMove i s t
    ∧ (s.pendingOk → t.devState = .addressed → s.devState ≠ .addressed → s.devState = .default)

/-- spec/10_state.md R39 and R20: `lineCoding` changes only when a SET_LINE_CODING payload is taken (or at `INIT`), and no step
writes the parameters. -/
def Obligations.LineCodingAndParametersPersist : Prop :=
  (∀ (i : Instr) (s t : State), exec i s = .next t → t.lineCoding ≠ s.lineCoding →
    i = .init ∨ ((i = .ctrlOutDone ∨ i = .evEp0Out ∨ ∃ w, i = .dispatch w)
      ∧ s.bdt0.rxCount = 7 ∧ ∃ c, s.ct = some c ∧ c.phase = .dataStage ∧ c.stage = .dataOut))
  ∧ ∀ s t : State, step s = .next t → t.params = s.params
end

