-- ==== Sys2Proof/Laws/Memory.lean ====
section
/-! SUPPORT. The laws of a memory: a read after a write, a write leaves every other address alone, every write keeps
the canonical form. -/

namespace Sys2Proof.Machine

@[simp] theorem memory_read_nil (a : Nat) : Memory.read [] a = none := rfl

@[simp] theorem memory_read_write_same (m : Memory) (a : Nat) (b : Byte) :
    Memory.read (Memory.write m a b) a = some b := by
  induction m with
  | nil => simp [Memory.write, Memory.read]
  | cons c m ih =>
    obtain ⟨k, c⟩ := c
    simp only [Memory.write]
    split
    · simp [Memory.read]
    · split
      · simp [Memory.read]
      · rename_i h
        simp [Memory.read, Ne.symm h, ih]

theorem memory_read_write_other (m : Memory) {a a' : Nat} (b : Byte) (h : a' ≠ a) :
    Memory.read (Memory.write m a b) a' = Memory.read m a' := by
  induction m with
  | nil => simp [Memory.write, Memory.read, Ne.symm h]
  | cons c m ih =>
    obtain ⟨k, c⟩ := c
    simp only [Memory.write]
    split
    · simp [Memory.read, Ne.symm h]
    · split
      · rename_i hk
        subst hk
        simp [Memory.read, Ne.symm h]
      · simp [Memory.read, ih]

theorem memory_read_write (m : Memory) (a a' : Nat) (b : Byte) :
    Memory.read (Memory.write m a b) a' = if a' = a then some b else Memory.read m a' := by
  by_cases h : a' = a
  · subst h; simp
  · simp [h, memory_read_write_other m b h]

/-- The canonical form says the addresses rise: every later address is above an earlier one. -/
theorem memory_wf_cons {k : Nat} {c : Byte} {m : Memory} :
    Memory.wf ((k, c) :: m) = true ↔ (∀ x ∈ m.head?, k < x.1) ∧ Memory.wf m = true := by
  cases m with
  | nil => simp [Memory.wf]
  | cons x m => obtain ⟨j, y⟩ := x; simp [Memory.wf]

theorem memory_head_write (m : Memory) (a : Nat) (b : Byte) (k : Nat) (hk : k < a)
    (h : ∀ x ∈ m.head?, k < x.1) : ∀ x ∈ (Memory.write m a b).head?, k < x.1 := by
  cases m with
  | nil => simpa [Memory.write] using hk
  | cons c m =>
    obtain ⟨j, c⟩ := c
    simp only [Memory.write]
    split
    · simpa using hk
    · split
      · simpa using hk
      · simpa using h

/-- Writing keeps the canonical form. -/
theorem memory_wf_write (m : Memory) (a : Nat) (b : Byte) (h : Memory.wf m = true) :
    Memory.wf (Memory.write m a b) = true := by
  induction m with
  | nil => rfl
  | cons c m ih =>
    obtain ⟨k, c⟩ := c
    have hc := memory_wf_cons.1 h
    simp only [Memory.write]
    split
    · rename_i hak
      exact memory_wf_cons.2 ⟨by simpa using hak, h⟩
    · split
      · rename_i hak
        subst hak
        exact memory_wf_cons.2 ⟨hc.1, hc.2⟩
      · rename_i h1 h2
        exact memory_wf_cons.2 ⟨memory_head_write m a b k (by omega) hc.1, ih hc.2⟩

/-- Writing a byte string keeps the canonical form. -/
theorem memory_wf_writeBytes (m : Memory) (a : Nat) (bs : List Byte) (h : Memory.wf m = true) :
    Memory.wf (Memory.writeBytes m a bs) = true := by
  induction bs generalizing m a with
  | nil => exact h
  | cons b bs ih => exact ih _ _ (memory_wf_write m a b h)

/-- A byte string lands at its addresses and nowhere else. -/
theorem memory_read_writeBytes (m : Memory) (a : Nat) (bs : List Byte) (x : Nat) :
    Memory.read (Memory.writeBytes m a bs) x
      = if a ≤ x ∧ x < a + bs.length then bs[x - a]? else Memory.read m x := by
  induction bs generalizing m a with
  | nil => simp [Memory.writeBytes]
  | cons b bs ih =>
    simp only [Memory.writeBytes, ih, List.length_cons, memory_read_write]
    by_cases hx : x = a
    · subst hx
      simp
    · by_cases h : a + 1 ≤ x ∧ x < a + 1 + bs.length
      · have h2 : a ≤ x ∧ x < a + (bs.length + 1) := by omega
        obtain ⟨n, rfl⟩ : ∃ n, x = a + 1 + n := ⟨x - (a + 1), by omega⟩
        have e1 : a + 1 + n - (a + 1) = n := by omega
        have e2 : a + 1 + n - a = n + 1 := by omega
        rw [if_pos h, if_pos h2, e1, e2]
        simp
      · have h2 : ¬ (a ≤ x ∧ x < a + (bs.length + 1)) := by omega
        rw [if_neg h, if_neg hx, if_neg h2]

/-- A store to a ring keeps the canonical form. -/
theorem memory_wf_ringStore (cap : Nat) (m : Memory) (c : Half) (b : Byte) (h : Memory.wf m = true) :
    Memory.wf (ringStore cap m c b) = true :=
  memory_wf_write _ _ _ h

/-- Storing a byte string to a ring keeps the canonical form. -/
theorem memory_wf_ringStores (cap : Nat) (m : Memory) (c : Half) (bs : List Byte) (h : Memory.wf m = true) :
    Memory.wf (ringStores cap m c bs) = true := by
  induction bs generalizing m c with
  | nil => exact h
  | cons b bs ih => exact ih _ _ (memory_wf_ringStore cap m c b h)

/-- The memories are in canonical form at reset. -/
theorem reset_memories_wf :
    Memory.wf State.reset.pma = true ∧ Memory.wf State.reset.rxrb.buf = true
      ∧ Memory.wf State.reset.txrb.buf = true := ⟨rfl, rfl, rfl⟩

end Sys2Proof.Machine
end

