-- ==== Sys2Proof/Laws/State.lean ====
section
/-! SUPPORT. The small lemmas of the state's accessors: one per field per update. -/

namespace Sys2Proof.Machine

/-! ## Reading a register file -/

@[simp] theorem ep_ep0 (s : State) : s.ep .ep0 = s.ep0 := rfl
@[simp] theorem ep_ep1 (s : State) : s.ep .ep1 = s.ep1 := rfl
@[simp] theorem bdt_ep0 (s : State) : s.bdt .ep0 = s.bdt0 := rfl
@[simp] theorem bdt_ep1 (s : State) : s.bdt .ep1 = s.bdt1 := rfl
@[simp] theorem bdtConfigured_ep0 (s : State) : s.bdtConfigured .ep0 = s.bdtConfigured0 := rfl
@[simp] theorem bdtConfigured_ep1 (s : State) : s.bdtConfigured .ep1 = s.bdtConfigured1 := rfl
@[simp] theorem setEp_ep0_eq (s : State) (x : Endpoint) : s.setEp .ep0 x = { s with ep0 := x } := rfl
@[simp] theorem setEp_ep1_eq (s : State) (x : Endpoint) : s.setEp .ep1 x = { s with ep1 := x } := rfl
@[simp] theorem setBdt_ep0_eq (s : State) (x : BdtEntry) : s.setBdt .ep0 x = { s with bdt0 := x } := rfl
@[simp] theorem setBdt_ep1_eq (s : State) (x : BdtEntry) : s.setBdt .ep1 x = { s with bdt1 := x } := rfl
@[simp] theorem setBdtConfigured_ep0_eq (s : State) (b : Bool) :
    s.setBdtConfigured .ep0 b = { s with bdtConfigured0 := b } := rfl
@[simp] theorem setBdtConfigured_ep1_eq (s : State) (b : Bool) :
    s.setBdtConfigured .ep1 b = { s with bdtConfigured1 := b } := rfl

@[simp] theorem ep_setEp_same (s : State) (e : Ep) (x : Endpoint) : (s.setEp e x).ep e = x := by
  cases e <;> rfl

@[simp] theorem bdt_setBdt_same (s : State) (e : Ep) (x : BdtEntry) : (s.setBdt e x).bdt e = x := by
  cases e <;> rfl

@[simp] theorem bdtConfigured_setBdtConfigured_same (s : State) (e : Ep) (b : Bool) :
    (s.setBdtConfigured e b).bdtConfigured e = b := by
  cases e <;> rfl

theorem ep_setEp_other (s : State) (e f : Ep) (x : Endpoint) (h : f ≠ e) : (s.setEp e x).ep f = s.ep f := by
  cases e <;> cases f <;> first | rfl | exact absurd rfl h

theorem bdt_setBdt_other (s : State) (e f : Ep) (x : BdtEntry) (h : f ≠ e) : (s.setBdt e x).bdt f = s.bdt f := by
  cases e <;> cases f <;> first | rfl | exact absurd rfl h

@[simp] theorem bdt_setEp (s : State) (e f : Ep) (x : Endpoint) : (s.setEp e x).bdt f = s.bdt f := by
  cases e <;> cases f <;> rfl

@[simp] theorem bdtConfigured_setEp (s : State) (e f : Ep) (x : Endpoint) :
    (s.setEp e x).bdtConfigured f = s.bdtConfigured f := by
  cases e <;> cases f <;> rfl

@[simp] theorem ep_setBdt (s : State) (e f : Ep) (x : BdtEntry) : (s.setBdt e x).ep f = s.ep f := by
  cases e <;> cases f <;> rfl

@[simp] theorem bdtConfigured_setBdt (s : State) (e f : Ep) (x : BdtEntry) :
    (s.setBdt e x).bdtConfigured f = s.bdtConfigured f := by
  cases e <;> cases f <;> rfl

@[simp] theorem ep_setBdtConfigured (s : State) (e f : Ep) (b : Bool) :
    (s.setBdtConfigured e b).ep f = s.ep f := by
  cases e <;> cases f <;> rfl

@[simp] theorem bdt_setBdtConfigured (s : State) (e f : Ep) (b : Bool) :
    (s.setBdtConfigured e b).bdt f = s.bdt f := by
  cases e <;> cases f <;> rfl

/-! ## What `setEp` leaves alone -/

@[simp] theorem setEp_params (s : State) (e : Ep) (x : Endpoint) :
    (s.setEp e x).params = s.params := by
  cases e <;> rfl

@[simp] theorem setEp_lifecycle (s : State) (e : Ep) (x : Endpoint) :
    (s.setEp e x).lifecycle = s.lifecycle := by
  cases e <;> rfl

@[simp] theorem setEp_inputs (s : State) (e : Ep) (x : Endpoint) :
    (s.setEp e x).inputs = s.inputs := by
  cases e <;> rfl

@[simp] theorem setEp_devState (s : State) (e : Ep) (x : Endpoint) :
    (s.setEp e x).devState = s.devState := by
  cases e <;> rfl

@[simp] theorem setEp_devAddr (s : State) (e : Ep) (x : Endpoint) :
    (s.setEp e x).devAddr = s.devAddr := by
  cases e <;> rfl

@[simp] theorem setEp_pendingAddr (s : State) (e : Ep) (x : Endpoint) :
    (s.setEp e x).pendingAddr = s.pendingAddr := by
  cases e <;> rfl

@[simp] theorem setEp_fatal (s : State) (e : Ep) (x : Endpoint) :
    (s.setEp e x).fatal = s.fatal := by
  cases e <;> rfl

@[simp] theorem setEp_bdt0 (s : State) (e : Ep) (x : Endpoint) :
    (s.setEp e x).bdt0 = s.bdt0 := by
  cases e <;> rfl

@[simp] theorem setEp_bdt1 (s : State) (e : Ep) (x : Endpoint) :
    (s.setEp e x).bdt1 = s.bdt1 := by
  cases e <;> rfl

@[simp] theorem setEp_bdtConfigured0 (s : State) (e : Ep) (x : Endpoint) :
    (s.setEp e x).bdtConfigured0 = s.bdtConfigured0 := by
  cases e <;> rfl

@[simp] theorem setEp_bdtConfigured1 (s : State) (e : Ep) (x : Endpoint) :
    (s.setEp e x).bdtConfigured1 = s.bdtConfigured1 := by
  cases e <;> rfl

@[simp] theorem setEp_ct (s : State) (e : Ep) (x : Endpoint) :
    (s.setEp e x).ct = s.ct := by
  cases e <;> rfl

@[simp] theorem setEp_lineCoding (s : State) (e : Ep) (x : Endpoint) :
    (s.setEp e x).lineCoding = s.lineCoding := by
  cases e <;> rfl

@[simp] theorem setEp_istat (s : State) (e : Ep) (x : Endpoint) :
    (s.setEp e x).istat = s.istat := by
  cases e <;> rfl

@[simp] theorem setEp_dispSnap (s : State) (e : Ep) (x : Endpoint) :
    (s.setEp e x).dispSnap = s.dispSnap := by
  cases e <;> rfl

@[simp] theorem setEp_rxrb (s : State) (e : Ep) (x : Endpoint) :
    (s.setEp e x).rxrb = s.rxrb := by
  cases e <;> rfl

@[simp] theorem setEp_txrb (s : State) (e : Ep) (x : Endpoint) :
    (s.setEp e x).txrb = s.txrb := by
  cases e <;> rfl

@[simp] theorem setEp_ep1TxBusy (s : State) (e : Ep) (x : Endpoint) :
    (s.setEp e x).ep1TxBusy = s.ep1TxBusy := by
  cases e <;> rfl

@[simp] theorem setEp_ep1TxLastLen (s : State) (e : Ep) (x : Endpoint) :
    (s.setEp e x).ep1TxLastLen = s.ep1TxLastLen := by
  cases e <;> rfl

@[simp] theorem setEp_overrunCount (s : State) (e : Ep) (x : Endpoint) :
    (s.setEp e x).overrunCount = s.overrunCount := by
  cases e <;> rfl

@[simp] theorem setEp_appOp (s : State) (e : Ep) (x : Endpoint) :
    (s.setEp e x).appOp = s.appOp := by
  cases e <;> rfl

@[simp] theorem setEp_pma (s : State) (e : Ep) (x : Endpoint) :
    (s.setEp e x).pma = s.pma := by
  cases e <;> rfl

@[simp] theorem setEp_draws (s : State) (e : Ep) (x : Endpoint) :
    (s.setEp e x).draws = s.draws := by
  cases e <;> rfl

@[simp] theorem setEp_busResp (s : State) (e : Ep) (x : Endpoint) :
    (s.setEp e x).busResp = s.busResp := by
  cases e <;> rfl

@[simp] theorem setEp_appResult (s : State) (e : Ep) (x : Endpoint) :
    (s.setEp e x).appResult = s.appResult := by
  cases e <;> rfl

@[simp] theorem setEp_cmdResult (s : State) (e : Ep) (x : Endpoint) :
    (s.setEp e x).cmdResult = s.cmdResult := by
  cases e <;> rfl

/-! ## What `setBdt` leaves alone -/

@[simp] theorem setBdt_params (s : State) (e : Ep) (x : BdtEntry) :
    (s.setBdt e x).params = s.params := by
  cases e <;> rfl

@[simp] theorem setBdt_lifecycle (s : State) (e : Ep) (x : BdtEntry) :
    (s.setBdt e x).lifecycle = s.lifecycle := by
  cases e <;> rfl

@[simp] theorem setBdt_inputs (s : State) (e : Ep) (x : BdtEntry) :
    (s.setBdt e x).inputs = s.inputs := by
  cases e <;> rfl

@[simp] theorem setBdt_devState (s : State) (e : Ep) (x : BdtEntry) :
    (s.setBdt e x).devState = s.devState := by
  cases e <;> rfl

@[simp] theorem setBdt_devAddr (s : State) (e : Ep) (x : BdtEntry) :
    (s.setBdt e x).devAddr = s.devAddr := by
  cases e <;> rfl

@[simp] theorem setBdt_pendingAddr (s : State) (e : Ep) (x : BdtEntry) :
    (s.setBdt e x).pendingAddr = s.pendingAddr := by
  cases e <;> rfl

@[simp] theorem setBdt_fatal (s : State) (e : Ep) (x : BdtEntry) :
    (s.setBdt e x).fatal = s.fatal := by
  cases e <;> rfl

@[simp] theorem setBdt_ep0 (s : State) (e : Ep) (x : BdtEntry) :
    (s.setBdt e x).ep0 = s.ep0 := by
  cases e <;> rfl

@[simp] theorem setBdt_ep1 (s : State) (e : Ep) (x : BdtEntry) :
    (s.setBdt e x).ep1 = s.ep1 := by
  cases e <;> rfl

@[simp] theorem setBdt_bdtConfigured0 (s : State) (e : Ep) (x : BdtEntry) :
    (s.setBdt e x).bdtConfigured0 = s.bdtConfigured0 := by
  cases e <;> rfl

@[simp] theorem setBdt_bdtConfigured1 (s : State) (e : Ep) (x : BdtEntry) :
    (s.setBdt e x).bdtConfigured1 = s.bdtConfigured1 := by
  cases e <;> rfl

@[simp] theorem setBdt_ct (s : State) (e : Ep) (x : BdtEntry) :
    (s.setBdt e x).ct = s.ct := by
  cases e <;> rfl

@[simp] theorem setBdt_lineCoding (s : State) (e : Ep) (x : BdtEntry) :
    (s.setBdt e x).lineCoding = s.lineCoding := by
  cases e <;> rfl

@[simp] theorem setBdt_istat (s : State) (e : Ep) (x : BdtEntry) :
    (s.setBdt e x).istat = s.istat := by
  cases e <;> rfl

@[simp] theorem setBdt_dispSnap (s : State) (e : Ep) (x : BdtEntry) :
    (s.setBdt e x).dispSnap = s.dispSnap := by
  cases e <;> rfl

@[simp] theorem setBdt_rxrb (s : State) (e : Ep) (x : BdtEntry) :
    (s.setBdt e x).rxrb = s.rxrb := by
  cases e <;> rfl

@[simp] theorem setBdt_txrb (s : State) (e : Ep) (x : BdtEntry) :
    (s.setBdt e x).txrb = s.txrb := by
  cases e <;> rfl

@[simp] theorem setBdt_ep1TxBusy (s : State) (e : Ep) (x : BdtEntry) :
    (s.setBdt e x).ep1TxBusy = s.ep1TxBusy := by
  cases e <;> rfl

@[simp] theorem setBdt_ep1TxLastLen (s : State) (e : Ep) (x : BdtEntry) :
    (s.setBdt e x).ep1TxLastLen = s.ep1TxLastLen := by
  cases e <;> rfl

@[simp] theorem setBdt_overrunCount (s : State) (e : Ep) (x : BdtEntry) :
    (s.setBdt e x).overrunCount = s.overrunCount := by
  cases e <;> rfl

@[simp] theorem setBdt_appOp (s : State) (e : Ep) (x : BdtEntry) :
    (s.setBdt e x).appOp = s.appOp := by
  cases e <;> rfl

@[simp] theorem setBdt_pma (s : State) (e : Ep) (x : BdtEntry) :
    (s.setBdt e x).pma = s.pma := by
  cases e <;> rfl

@[simp] theorem setBdt_draws (s : State) (e : Ep) (x : BdtEntry) :
    (s.setBdt e x).draws = s.draws := by
  cases e <;> rfl

@[simp] theorem setBdt_busResp (s : State) (e : Ep) (x : BdtEntry) :
    (s.setBdt e x).busResp = s.busResp := by
  cases e <;> rfl

@[simp] theorem setBdt_appResult (s : State) (e : Ep) (x : BdtEntry) :
    (s.setBdt e x).appResult = s.appResult := by
  cases e <;> rfl

@[simp] theorem setBdt_cmdResult (s : State) (e : Ep) (x : BdtEntry) :
    (s.setBdt e x).cmdResult = s.cmdResult := by
  cases e <;> rfl

/-! ## What `setBdtConfigured` leaves alone -/

@[simp] theorem setBdtConfigured_params (s : State) (e : Ep) (b : Bool) :
    (s.setBdtConfigured e b).params = s.params := by
  cases e <;> rfl

@[simp] theorem setBdtConfigured_lifecycle (s : State) (e : Ep) (b : Bool) :
    (s.setBdtConfigured e b).lifecycle = s.lifecycle := by
  cases e <;> rfl

@[simp] theorem setBdtConfigured_inputs (s : State) (e : Ep) (b : Bool) :
    (s.setBdtConfigured e b).inputs = s.inputs := by
  cases e <;> rfl

@[simp] theorem setBdtConfigured_devState (s : State) (e : Ep) (b : Bool) :
    (s.setBdtConfigured e b).devState = s.devState := by
  cases e <;> rfl

@[simp] theorem setBdtConfigured_devAddr (s : State) (e : Ep) (b : Bool) :
    (s.setBdtConfigured e b).devAddr = s.devAddr := by
  cases e <;> rfl

@[simp] theorem setBdtConfigured_pendingAddr (s : State) (e : Ep) (b : Bool) :
    (s.setBdtConfigured e b).pendingAddr = s.pendingAddr := by
  cases e <;> rfl

@[simp] theorem setBdtConfigured_fatal (s : State) (e : Ep) (b : Bool) :
    (s.setBdtConfigured e b).fatal = s.fatal := by
  cases e <;> rfl

@[simp] theorem setBdtConfigured_ep0 (s : State) (e : Ep) (b : Bool) :
    (s.setBdtConfigured e b).ep0 = s.ep0 := by
  cases e <;> rfl

@[simp] theorem setBdtConfigured_ep1 (s : State) (e : Ep) (b : Bool) :
    (s.setBdtConfigured e b).ep1 = s.ep1 := by
  cases e <;> rfl

@[simp] theorem setBdtConfigured_bdt0 (s : State) (e : Ep) (b : Bool) :
    (s.setBdtConfigured e b).bdt0 = s.bdt0 := by
  cases e <;> rfl

@[simp] theorem setBdtConfigured_bdt1 (s : State) (e : Ep) (b : Bool) :
    (s.setBdtConfigured e b).bdt1 = s.bdt1 := by
  cases e <;> rfl

@[simp] theorem setBdtConfigured_ct (s : State) (e : Ep) (b : Bool) :
    (s.setBdtConfigured e b).ct = s.ct := by
  cases e <;> rfl

@[simp] theorem setBdtConfigured_lineCoding (s : State) (e : Ep) (b : Bool) :
    (s.setBdtConfigured e b).lineCoding = s.lineCoding := by
  cases e <;> rfl

@[simp] theorem setBdtConfigured_istat (s : State) (e : Ep) (b : Bool) :
    (s.setBdtConfigured e b).istat = s.istat := by
  cases e <;> rfl

@[simp] theorem setBdtConfigured_dispSnap (s : State) (e : Ep) (b : Bool) :
    (s.setBdtConfigured e b).dispSnap = s.dispSnap := by
  cases e <;> rfl

@[simp] theorem setBdtConfigured_rxrb (s : State) (e : Ep) (b : Bool) :
    (s.setBdtConfigured e b).rxrb = s.rxrb := by
  cases e <;> rfl

@[simp] theorem setBdtConfigured_txrb (s : State) (e : Ep) (b : Bool) :
    (s.setBdtConfigured e b).txrb = s.txrb := by
  cases e <;> rfl

@[simp] theorem setBdtConfigured_ep1TxBusy (s : State) (e : Ep) (b : Bool) :
    (s.setBdtConfigured e b).ep1TxBusy = s.ep1TxBusy := by
  cases e <;> rfl

@[simp] theorem setBdtConfigured_ep1TxLastLen (s : State) (e : Ep) (b : Bool) :
    (s.setBdtConfigured e b).ep1TxLastLen = s.ep1TxLastLen := by
  cases e <;> rfl

@[simp] theorem setBdtConfigured_overrunCount (s : State) (e : Ep) (b : Bool) :
    (s.setBdtConfigured e b).overrunCount = s.overrunCount := by
  cases e <;> rfl

@[simp] theorem setBdtConfigured_appOp (s : State) (e : Ep) (b : Bool) :
    (s.setBdtConfigured e b).appOp = s.appOp := by
  cases e <;> rfl

@[simp] theorem setBdtConfigured_pma (s : State) (e : Ep) (b : Bool) :
    (s.setBdtConfigured e b).pma = s.pma := by
  cases e <;> rfl

@[simp] theorem setBdtConfigured_draws (s : State) (e : Ep) (b : Bool) :
    (s.setBdtConfigured e b).draws = s.draws := by
  cases e <;> rfl

@[simp] theorem setBdtConfigured_busResp (s : State) (e : Ep) (b : Bool) :
    (s.setBdtConfigured e b).busResp = s.busResp := by
  cases e <;> rfl

@[simp] theorem setBdtConfigured_appResult (s : State) (e : Ep) (b : Bool) :
    (s.setBdtConfigured e b).appResult = s.appResult := by
  cases e <;> rfl

@[simp] theorem setBdtConfigured_cmdResult (s : State) (e : Ep) (b : Bool) :
    (s.setBdtConfigured e b).cmdResult = s.cmdResult := by
  cases e <;> rfl

/-! ## One direction of an endpoint -/

@[simp] theorem request_configured (x : Endpoint) (d : Dir) (st : Status) :
    (x.request d st).configured = x.configured := by
  cases d <;> rfl

@[simp] theorem request_stalled (x : Endpoint) (d : Dir) (st : Status) : (x.request d st).stalled = x.stalled := by
  cases d <;> rfl

@[simp] theorem request_type (x : Endpoint) (d : Dir) (st : Status) : (x.request d st).type = x.type := by
  cases d <;> rfl

@[simp] theorem request_txToggle (x : Endpoint) (d : Dir) (st : Status) : (x.request d st).txToggle = x.txToggle := by
  cases d <;> rfl

@[simp] theorem request_rxToggle (x : Endpoint) (d : Dir) (st : Status) : (x.request d st).rxToggle = x.rxToggle := by
  cases d <;> rfl

@[simp] theorem request_txStat (x : Endpoint) (d : Dir) (st : Status) : (x.request d st).txStat = x.txStat := by
  cases d <;> rfl

@[simp] theorem request_rxStat (x : Endpoint) (d : Dir) (st : Status) : (x.request d st).rxStat = x.rxStat := by
  cases d <;> rfl

@[simp] theorem flip_configured (x : Endpoint) (d : Dir) : (x.flip d).configured = x.configured := by
  cases d <;> rfl

@[simp] theorem flip_flip (x : Endpoint) (d : Dir) : (x.flip d).flip d = x := by
  cases d <;> simp [Endpoint.flip]

@[simp] theorem toggle_flip_same (x : Endpoint) (d : Dir) : (x.flip d).toggle d = !x.toggle d := by
  cases d <;> rfl

end Sys2Proof.Machine
end

