-- ==== Sys2Proof/Laws/Ops.lean ====
section
/-! SUPPORT. For each shared operation, once, everything it can do when it answers a next state, and when it does. -/

namespace Sys2Proof.Machine

/-! ## Sequencing -/

@[simp] theorem andThen_next (s : State) (f : State → Result) : andThen (.next s) f = f s := rfl
@[simp] theorem andThen_fault (r : Fault) (f : State → Result) : andThen (.fault r) f = .fault r := rfl
@[simp] theorem andThen_refused (r : Refusal) (f : State → Result) : andThen (.refused r) f = .refused r := rfl
@[simp] theorem withValue_ok {α : Type} (a : α) (f : α → Result) : withValue (.ok a) f = f a := rfl
@[simp] theorem withValue_error {α : Type} (r : Refusal) (f : α → Result) :
    withValue (.error r) f = .refused r := rfl

/-- A sequence answers a next state exactly when its first part does and its second part does from there. -/
theorem andThen_eq_next {o : Result} {f : State → Result} {t : State} :
    andThen o f = .next t ↔ ∃ s, o = .next s ∧ f s = .next t := by
  cases o <;> simp [andThen]

/-- Go on from a first part that is known to answer a next state. -/
theorem andThen_of_next {o : Result} {u : State} (h : o = .next u) (f : State → Result) : andThen o f = f u := by
  rw [h]; rfl

theorem withValue_of_ok {α : Type} {v : Except Refusal α} {a : α} (h : v = .ok a) (f : α → Result) :
    withValue v f = f a := by
  rw [h]; rfl

theorem andThen_eq_refused {o : Result} {f : State → Result} {r : Refusal} :
    andThen o f = .refused r ↔ o = .refused r ∨ ∃ s, o = .next s ∧ f s = .refused r := by
  cases o <;> simp [andThen]

theorem andThen_eq_fault {o : Result} {f : State → Result} {r : Fault} :
    andThen o f = .fault r ↔ o = .fault r ∨ ∃ s, o = .next s ∧ f s = .fault r := by
  cases o <;> simp [andThen]

theorem withValue_eq_next {α : Type} {v : Except Refusal α} {f : α → Result} {t : State} :
    withValue v f = .next t ↔ ∃ a, v = .ok a ∧ f a = .next t := by
  cases v <;> simp [withValue]

theorem withValue_eq_refused {α : Type} {v : Except Refusal α} {f : α → Result} {r : Refusal} :
    withValue v f = .refused r ↔ v = .error r ∨ ∃ a, v = .ok a ∧ f a = .refused r := by
  cases v <;> simp [withValue]

/-! ## Commands -/

/-- `EP.SETSTATUS` answers a next state exactly on a configured endpoint, and then only requests. -/
theorem setStatus_eq_next {e : Ep} {d : Dir} {st : Status} {s t : State} :
    setStatus e d st s = .next t ↔ (s.ep e).configured = true ∧ t = s.setEp e ((s.ep e).request d st) := by
  unfold setStatus
  cases h : (s.ep e).configured <;> simp [eq_comm]

theorem setStatus_of_configured {e : Ep} {s : State} (d : Dir) (st : Status) (h : (s.ep e).configured = true) :
    setStatus e d st s = .next (s.setEp e ((s.ep e).request d st)) :=
  setStatus_eq_next.2 ⟨h, rfl⟩

/-- `EP.TOGGLE` answers a next state exactly on a configured endpoint, and then only flips. -/
theorem toggleData_eq_next {e : Ep} {d : Dir} {s t : State} :
    toggleData e d s = .next t ↔ (s.ep e).configured = true ∧ t = s.setEp e ((s.ep e).flip d) := by
  unfold toggleData
  cases h : (s.ep e).configured <;> simp [eq_comm]

theorem toggleData_of_configured {e : Ep} {s : State} (d : Dir) (h : (s.ep e).configured = true) :
    toggleData e d s = .next (s.setEp e ((s.ep e).flip d)) :=
  toggleData_eq_next.2 ⟨h, rfl⟩

/-- `BDT.SETTXCOUNT` answers a next state exactly on a configured entry with n at most 64. -/
theorem setTxCount_eq_next {e : Ep} {n : Half} {s t : State} :
    setTxCount e n s = .next t ↔
      s.bdtConfigured e = true ∧ n.toNat ≤ 64 ∧ t = s.setBdt e { s.bdt e with txCount := n } := by
  unfold setTxCount
  cases h : s.bdtConfigured e
  · simp
  · by_cases hn : n.toNat ≤ 64
    · simp [Config.maxPacket, Nat.not_lt.2 hn, hn, eq_comm]
    · simp [Config.maxPacket, Nat.lt_of_not_le hn, hn]

theorem setTxCount_of_configured {e : Ep} {n : Half} {s : State} (h : s.bdtConfigured e = true) (hn : n.toNat ≤ 64) :
    setTxCount e n s = .next (s.setBdt e { s.bdt e with txCount := n }) :=
  setTxCount_eq_next.2 ⟨h, hn, rfl⟩

theorem readRxCount_eq_ok {e : Ep} {s : State} {n : Half} :
    readRxCount e s = .ok n ↔ s.bdtConfigured e = true ∧ n = (s.bdt e).rxCount := by
  unfold readRxCount
  cases h : s.bdtConfigured e <;> simp [eq_comm]

theorem readRxCount_of_configured {e : Ep} {s : State} (h : s.bdtConfigured e = true) :
    readRxCount e s = .ok (s.bdt e).rxCount :=
  readRxCount_eq_ok.2 ⟨h, rfl⟩

/-! ## Packet memory -/

@[simp] theorem length_pmaBytes (s : State) (a n : Nat) : (s.pmaBytes a n).length = n := by
  induction n generalizing a with
  | zero => rfl
  | succ n ih => simp [State.pmaBytes, ih]

theorem pmaRead_eq_ok {a n : Nat} {s : State} {d : List Byte} :
    pmaRead a n s = .ok d ↔
      (n ≤ 64 ∧ s.params.bdtFootprint ≤ a ∧ a + n ≤ s.params.pmaSize) ∧ d = s.pmaBytes a n := by
  unfold pmaRead
  by_cases h : n ≤ Config.maxPacket ∧ s.params.bdtFootprint ≤ a ∧ a + n ≤ s.params.pmaSize
  · simp only [h, and_self, if_true, Except.ok.injEq]
    simp only [Config.maxPacket] at h
    simp [h, eq_comm]
  · simp only [h, if_false]
    simp only [Config.maxPacket] at h
    simp [h]

theorem pmaRead_of_inside {a n : Nat} {s : State} (h1 : n ≤ 64) (h2 : s.params.bdtFootprint ≤ a)
    (h3 : a + n ≤ s.params.pmaSize) : pmaRead a n s = .ok (s.pmaBytes a n) :=
  pmaRead_eq_ok.2 ⟨⟨h1, h2, h3⟩, rfl⟩

/-- The memory `PmaWrite` leaves. -/
def writtenPma (s : State) (a : Nat) (bs : List Byte) : Memory :=
  if bs.length % 2 = 1 ∧ a + bs.length < s.params.pmaSize then
    Memory.write (Memory.writeBytes s.pma a bs) (a + bs.length) (Config.freeByte s.draws)
  else Memory.writeBytes s.pma a bs

/-- The number of free draws made after a `PmaWrite`. -/
def writtenDraws (s : State) (a : Nat) (bs : List Byte) : Nat :=
  if bs.length % 2 = 1 ∧ a + bs.length < s.params.pmaSize then s.draws + 1 else s.draws

/-- `PmaWrite` answers a next state exactly inside its precondition, and then writes packet memory only. -/
theorem pmaWrite_eq_next {a : Nat} {bs : List Byte} {s t : State} :
    pmaWrite a bs s = .next t ↔
      (bs.length ≤ 64 ∧ a % 2 = 0 ∧ s.params.bdtFootprint ≤ a ∧ a + bs.length ≤ s.params.pmaSize)
        ∧ t = { s with pma := writtenPma s a bs, draws := writtenDraws s a bs } := by
  unfold pmaWrite writtenPma writtenDraws
  dsimp only
  by_cases h : bs.length ≤ Config.maxPacket ∧ a % 2 = 0 ∧ s.params.bdtFootprint ≤ a
      ∧ a + bs.length ≤ s.params.pmaSize
  · rw [if_pos h]
    simp only [Config.maxPacket] at h
    split
    · exact ⟨fun e => ⟨h, (Host.Outcome.next.inj e).symm⟩, fun e => by rw [e.2]⟩
    · exact ⟨fun e => ⟨h, (Host.Outcome.next.inj e).symm⟩, fun e => by rw [e.2]⟩
  · rw [if_neg h]
    simp only [Config.maxPacket] at h
    simp [h]

theorem pmaWrite_of_inside {a : Nat} {bs : List Byte} {s : State} (h1 : bs.length ≤ 64) (h2 : a % 2 = 0)
    (h3 : s.params.bdtFootprint ≤ a) (h4 : a + bs.length ≤ s.params.pmaSize) :
    pmaWrite a bs s = .next { s with pma := writtenPma s a bs, draws := writtenDraws s a bs } :=
  pmaWrite_eq_next.2 ⟨⟨h1, h2, h3, h4⟩, rfl⟩

theorem writtenPma_wf (s : State) (a : Nat) (bs : List Byte) (h : Memory.wf s.pma = true) :
    Memory.wf (writtenPma s a bs) = true := by
  unfold writtenPma
  split
  · exact memory_wf_write _ _ _ (memory_wf_writeBytes _ _ _ h)
  · exact memory_wf_writeBytes _ _ _ h

/-- Outside the bytes of a `PmaWrite`, rounded up to whole 16-bit units, packet memory reads as before. -/
theorem writtenPma_read_outside (s : State) (a : Nat) (bs : List Byte) (x : Nat)
    (h : x < a ∨ a + bs.length + bs.length % 2 ≤ x) :
    Memory.read (writtenPma s a bs) x = Memory.read s.pma x := by
  unfold writtenPma
  have hx : ¬ (a ≤ x ∧ x < a + bs.length) := by omega
  split
  · rw [memory_read_write_other _ _ (by omega), memory_read_writeBytes, if_neg hx]
  · rw [memory_read_writeBytes, if_neg hx]

/-- Inside, byte `i` of the string reads back. -/
theorem writtenPma_read_inside (s : State) (a : Nat) (bs : List Byte) (i : Nat) (h : i < bs.length) :
    Memory.read (writtenPma s a bs) (a + i) = some bs[i] := by
  have hx : a ≤ a + i ∧ a + i < a + bs.length := by omega
  have e : Memory.read (Memory.writeBytes s.pma a bs) (a + i) = some bs[i] := by
    rw [memory_read_writeBytes, if_pos hx]
    simp [h]
  unfold writtenPma
  split
  · rw [memory_read_write_other _ _ (by omega), e]
  · exact e

/-! ## Errors and events -/

/-- The stall action answers a next state exactly when endpoint 0 is configured. -/
theorem stall0_eq_next {s t : State} :
    stall0 s = .next t ↔ s.ep0.configured = true
      ∧ t = { s with
          ep0 := { s.ep0 with txStatReq := some .stall, rxStatReq := some .stall, stalled := true }
          ct := none
          pendingAddr := none } := by
  unfold stall0
  cases h : s.ep0.configured
  · simp [setStatus, h]
  · simp only [setStatus, ep_ep0, h, Bool.true_eq_false, if_false, andThen_next, setEp_ep0_eq, Endpoint.request,
      true_and]
    exact ⟨fun e => (Host.Outcome.next.inj e).symm, fun e => by rw [e]⟩

theorem stall0_of_configured {s : State} (h : s.ep0.configured = true) :
    stall0 s = .next { s with
      ep0 := { s.ep0 with txStatReq := some .stall, rxStatReq := some .stall, stalled := true }
      ct := none
      pendingAddr := none } :=
  stall0_eq_next.2 ⟨h, rfl⟩

/-- A handler's meaning answers a next state exactly when its body does, and then its flag is clear. -/
theorem handleEvent_eq_next {e : Event} {body : State → Result} {s t : State} (hf : s.fatal = false) :
    handleEvent e body s = .next t ↔ ∃ u, body s = .next u ∧ t = { u with istat := u.istat.clear e } := by
  simp only [handleEvent, hf, Bool.false_eq_true, if_false, andThen_eq_next]
  exact ⟨fun ⟨u, hu, e⟩ => ⟨u, hu, (Host.Outcome.next.inj e).symm⟩, fun ⟨u, hu, e⟩ => ⟨u, hu, by rw [e]⟩⟩

theorem handleEvent_fatal {e : Event} {body : State → Result} {s : State} (hf : s.fatal = true) :
    handleEvent e body s = .next s := by
  simp [handleEvent, hf]

theorem linkStep_of_running {body : State → Result} {s : State} (hf : s.fatal = false) :
    linkStep body s = body (applyRequests s) := by
  simp [linkStep, hf]

theorem linkStep_fatal {body : State → Result} {s : State} (hf : s.fatal = true) :
    linkStep body s = .next (respond .silent s) := by
  simp [linkStep, hf]

/-! ## Flags -/

@[simp] theorem istat_ofWord_pack (f : Istat) : Istat.ofWord f.pack = f := by
  obtain ⟨a, b, c, d, e, g, h, i, j⟩ := f
  cases a <;> cases b <;> cases c <;> cases d <;> cases e <;> cases g <;> cases h <;> cases i <;> cases j <;> rfl

/-- The first event's flag is set. -/
theorem firstEvent_has {f : Istat} {e : Event} (h : f.firstEvent = some e) : f.has e = true := by
  unfold Istat.firstEvent at h
  exact List.find?_some h

/-! ## Rings -/

@[simp] theorem length_ringLoads (free : Nat → Byte) (cap : Nat) (m : Memory) (c : Half) (n : Nat) :
    (ringLoads free cap m c n).length = n := by
  induction n generalizing c with
  | zero => rfl
  | succ n ih => simp [ringLoads, ih]

end Sys2Proof.Machine
end

