-- ==== Sys2Proof/Laws/Endpoint.lean ====
section
/-! SUPPORT. What the shared operations of the two endpoints do on an endpoint that is ready for them: packet memory in
terms of what it reads as, the parts of a control transfer, the parts of the bulk path. -/

namespace Sys2Proof.Machine

/-! ## Packet memory as it reads -/

theorem pmaByte_written_outside (s t : State) (a : Nat) (bs : List Byte) (ht : t.pma = writtenPma s a bs) (x : Nat)
    (h : x < a ∨ a + bs.length + bs.length % 2 ≤ x) : t.pmaByte x = s.pmaByte x := by
  unfold State.pmaByte
  rw [ht, writtenPma_read_outside s a bs x h]

theorem pmaByte_written_inside (s t : State) (a : Nat) (bs : List Byte) (ht : t.pma = writtenPma s a bs) (i : Nat)
    (h : i < bs.length) : t.pmaByte (a + i) = bs[i] := by
  unfold State.pmaByte
  rw [ht, writtenPma_read_inside s a bs i h]
  rfl

/-- Byte `i` of a stretch of packet memory. -/
theorem getElem_pmaBytes (s : State) (a n i : Nat) (h : i < (s.pmaBytes a n).length) :
    (s.pmaBytes a n)[i] = s.pmaByte (a + i) := by
  induction n generalizing a i with
  | zero => simp [State.pmaBytes] at h
  | succ n ih =>
    cases i with
    | zero => rfl
    | succ i =>
      have h' : i < (s.pmaBytes (a + 1) n).length := by simpa [State.pmaBytes] using h
      rw [show a + (i + 1) = a + 1 + i by omega, ← ih (a + 1) i h']
      rfl

/-- A stretch of packet memory depends only on the bytes it covers. -/
theorem pmaBytes_congr {s t : State} {a n : Nat} (h : ∀ i, i < n → t.pmaByte (a + i) = s.pmaByte (a + i)) :
    t.pmaBytes a n = s.pmaBytes a n := by
  apply List.ext_getElem (by simp)
  intro i h1 h2
  rw [getElem_pmaBytes, getElem_pmaBytes]
  exact h i (by simpa using h1)

/-- After a `PmaWrite` its bytes read back. -/
theorem pmaBytes_written (s t : State) (a : Nat) (bs : List Byte) (ht : t.pma = writtenPma s a bs) :
    t.pmaBytes a bs.length = bs := by
  apply List.ext_getElem (by simp)
  intro i h1 h2
  rw [getElem_pmaBytes, pmaByte_written_inside s t a bs ht i h2]

theorem samePmaOutside_written (s t : State) (a : Nat) (bs : List Byte) (ht : t.pma = writtenPma s a bs) :
    SamePmaOutside a bs.length s t :=
  fun x hx => pmaByte_written_outside s t a bs ht x hx

/-- Reading bytes depends on packet memory alone. -/
theorem pmaByte_of_pma_eq {s t : State} (h : t.pma = s.pma) (a : Nat) : t.pmaByte a = s.pmaByte a := by
  unfold State.pmaByte
  rw [h]

theorem pmaBytes_of_pma_eq {s t : State} (h : t.pma = s.pma) (a n : Nat) : t.pmaBytes a n = s.pmaBytes a n :=
  pmaBytes_congr fun i _ => pmaByte_of_pma_eq h (a + i)

/-! ## The control endpoint -/

theorem startStatusIn_of_ready {c : ControlTransfer} {s : State} (h : s.ep0.configured = true)
    (hb : s.bdtConfigured0 = true) : startStatusIn c s = .next (s.statusInArmed c) :=
  (andThen_of_next (setTxCount_of_configured (e := .ep0) (n := 0)
      (s := { s with ct := some { c with phase := .statusStage, lastLen := 0 } }) hb (by decide)) _).trans
    (setStatus_of_configured (e := .ep0) .tx .valid h)

/-- The packet `SendChunk` writes. -/
def chunkOf (c : ControlTransfer) : List Byte :=
  (c.data.drop c.pos).take (min Config.maxPacket (c.data.length - c.pos))

@[simp] theorem length_chunkOf (c : ControlTransfer) : (chunkOf c).length = min 64 (c.data.length - c.pos) := by
  simp [chunkOf, Config.maxPacket]

/-- The block after `SendChunk`. -/
def State.chunkSent (c : ControlTransfer) (s : State) : State :=
  { s with
    ct := some { c with lastLen := min 64 (c.data.length - c.pos) }
    bdt0 := { s.bdt0 with txCount := BitVec.ofNat 16 (min 64 (c.data.length - c.pos)) }
    ep0 := { s.ep0 with txStatReq := some .valid }
    pma := writtenPma s s.bdt0.txOffset.toNat (chunkOf c)
    draws := writtenDraws s s.bdt0.txOffset.toNat (chunkOf c) }

theorem sendChunk_of_ready {c : ControlTransfer} {s : State} (h : s.ep0Ready) :
    sendChunk c s = .next (s.chunkSent c) := by
  obtain ⟨h1, h2, h3⟩ := h
  have hw : pmaWrite s.bdt0.txOffset.toNat (chunkOf c) s = .next { s with
      pma := writtenPma s s.bdt0.txOffset.toNat (chunkOf c)
      draws := writtenDraws s s.bdt0.txOffset.toNat (chunkOf c) } :=
    pmaWrite_of_inside (by rw [length_chunkOf]; exact Nat.min_le_left _ _) h3.1 h3.2.2.1
      (by rw [length_chunkOf]; have := h3.2.2.2.2.2.2.2.2.1; omega)
  have hc : (BitVec.ofNat 16 (min 64 (c.data.length - c.pos))).toNat ≤ 64 := by
    rw [BitVec.toNat_ofNat]; omega
  refine (andThen_of_next hw _).trans ?_
  exact (andThen_of_next (setTxCount_of_configured (e := .ep0) (s := { s with
      pma := writtenPma s s.bdt0.txOffset.toNat (chunkOf c)
      draws := writtenDraws s s.bdt0.txOffset.toNat (chunkOf c)
      ct := some { c with lastLen := min 64 (c.data.length - c.pos) } }) h2 hc) _).trans
    (setStatus_of_configured (e := .ep0) .tx .valid h1)

theorem chunkSent_armed (c : ControlTransfer) (s : State) : ChunkArmed c s (s.chunkSent c) := by
  refine ⟨rfl, ?_, ?_⟩
  · have := pmaBytes_written s (s.chunkSent c) s.bdt0.txOffset.toNat (chunkOf c) rfl
    rwa [length_chunkOf] at this
  · have := samePmaOutside_written s (s.chunkSent c) s.bdt0.txOffset.toNat (chunkOf c) rfl
    rwa [length_chunkOf] at this

theorem startDataIn_of_ready {resp : List Byte} {c : ControlTransfer} {s : State} (h : s.ep0Ready) :
    ∃ t, startDataIn resp c s = .next t ∧ DataInStarted resp c s t := by
  by_cases hl : c.length = 0
  · exact ⟨s.statusInArmed c, (if_pos hl).trans (startStatusIn_of_ready h.1 h.2.1),
      by unfold DataInStarted; exact (if_pos hl).mpr rfl⟩
  · have e := (andThen_of_next (sendChunk_of_ready (c := { c with
        data := resp.take c.length.toNat, pos := 0, stage := .dataIn, phase := .dataStage }) h) _).trans
      (setStatus_of_configured (e := .ep0) .rx .valid h.1)
    refine ⟨_, (if_neg hl).trans e, ?_⟩
    unfold DataInStarted
    exact (if_neg hl).mpr (chunkSent_armed _ { s with ep0 := { s.ep0 with rxStatReq := some .valid } })

theorem abortTransfer_of_configured {s : State} (h : s.ep0.configured = true) :
    abortTransfer s = .next s.aborted := by
  simp [abortTransfer, setStatus, h, Endpoint.request, State.aborted]

end Sys2Proof.Machine
end

