-- ==== Sys2Proof/Laws/Ring.lean ====
section
/-! SUPPORT. The integer laws of a ring and its byte order (spec/20_memory.md R78 to R80): which slot a count means, that
bytes stored behind the contents are read behind them, and that reading from the front takes the oldest. -/

namespace Sys2Proof.Machine

/-! ## Slots -/

/-- A capacity divides the index range: "2^16 is a multiple of CAP" (spec/20_memory.md R78). -/
theorem capOk_dvd {cap : Nat} (h : Params.capOk cap = true) : cap ∣ 65536 := by
  simp only [Params.capOk, List.any_eq_true, List.mem_range, beq_iff_eq] at h
  obtain ⟨k, hk, rfl⟩ := h
  exact Nat.pow_dvd_pow 2 (show k ≤ 16 by omega)

theorem capOk_pos {cap : Nat} (h : Params.capOk cap = true) : 0 < cap :=
  Nat.pos_of_dvd_of_pos (capOk_dvd h) (by decide)

theorem capOk_le {cap : Nat} (h : Params.capOk cap = true) : cap ≤ 32768 := by
  simp only [Params.capOk, List.any_eq_true, List.mem_range, beq_iff_eq] at h
  obtain ⟨k, hk, rfl⟩ := h
  exact Nat.pow_le_pow_right (by decide) (show k ≤ 15 by omega)

/-- The slot of a count is not disturbed by the wrap of the count (spec/20_memory.md R78). -/
theorem slot_add {cap : Nat} (h : cap ∣ 65536) (c : Half) (i : Nat) :
    (c + BitVec.ofNat 16 i).toNat % cap = (c.toNat + i) % cap := by
  rw [BitVec.toNat_add, BitVec.toNat_ofNat, Nat.mod_mod_of_dvd _ h, Nat.add_mod, Nat.mod_mod_of_dvd _ h,
    ← Nat.add_mod]

/-- Two counts less than a capacity apart have different slots. -/
theorem slot_ne {cap a d : Nat} (h1 : 0 < d) (h2 : d < cap) : (a + d) % cap ≠ a % cap := by
  intro e
  have : (a + d - a) % cap = 0 := Nat.sub_mod_eq_zero_of_mod_eq e
  rw [Nat.add_sub_cancel_left, Nat.mod_eq_of_lt h2] at this
  omega

theorem half_add_one_add (c : Half) (i : Nat) : c + 1 + BitVec.ofNat 16 i = c + BitVec.ofNat 16 (i + 1) := by
  rw [BitVec.add_assoc]
  congr 1
  apply BitVec.eq_of_toNat_eq
  simp [BitVec.toNat_add, Nat.add_comm]

/-! ## Loads -/

theorem getElem_ringLoads (free : Nat → Byte) (cap : Nat) (m : Memory) (c : Half) (n i : Nat)
    (h : i < (ringLoads free cap m c n).length) :
    (ringLoads free cap m c n)[i] = ringLoad free cap m (c + BitVec.ofNat 16 i) := by
  induction n generalizing c i with
  | zero => simp [ringLoads] at h
  | succ n ih =>
    cases i with
    | zero => simp [ringLoads]
    | succ i =>
      simp only [ringLoads, List.getElem_cons_succ]
      rw [ih, half_add_one_add]

/-- Loading `a + b` bytes is loading `a` and then `b` from there on. -/
theorem ringLoads_add (free : Nat → Byte) (cap : Nat) (m : Memory) (c : Half) (a b : Nat) :
    ringLoads free cap m c (a + b)
      = ringLoads free cap m c a ++ ringLoads free cap m (c + BitVec.ofNat 16 a) b := by
  induction a generalizing c with
  | zero => simp [ringLoads]
  | succ a ih =>
    rw [Nat.succ_add]
    simp only [ringLoads, List.cons_append, ih, half_add_one_add]

theorem take_ringLoads (free : Nat → Byte) (cap : Nat) (m : Memory) (c : Half) {k n : Nat} (h : k ≤ n) :
    (ringLoads free cap m c n).take k = ringLoads free cap m c k := by
  obtain ⟨d, rfl⟩ := Nat.exists_eq_add_of_le h
  rw [ringLoads_add, List.take_left' (by simp)]

theorem drop_ringLoads (free : Nat → Byte) (cap : Nat) (m : Memory) (c : Half) {k n : Nat} (h : k ≤ n) :
    (ringLoads free cap m c n).drop k = ringLoads free cap m (c + BitVec.ofNat 16 k) (n - k) := by
  obtain ⟨d, rfl⟩ := Nat.exists_eq_add_of_le h
  rw [ringLoads_add, List.drop_left' (by simp), Nat.add_sub_cancel_left]

/-! ## Stores -/

theorem read_ringStores_other {cap : Nat} (hd : cap ∣ 65536) (m : Memory) (c : Half) (bs : List Byte) (j : Nat)
    (h : ∀ i, i < bs.length → (c.toNat + i) % cap ≠ j) :
    Memory.read (ringStores cap m c bs) j = Memory.read m j := by
  induction bs generalizing m c with
  | nil => rfl
  | cons b bs ih =>
    simp only [ringStores]
    rw [ih]
    · exact memory_read_write_other m b (Ne.symm (by simpa using h 0 (by simp)))
    · intro i hi
      have := h (i + 1) (by simp only [List.length_cons]; omega)
      have e : (c + 1).toNat % cap = (c.toNat + 1) % cap := slot_add hd c 1
      rw [Nat.add_mod, e, ← Nat.add_mod]
      rwa [show c.toNat + 1 + i = c.toNat + (i + 1) by omega]

theorem read_ringStores_same {cap : Nat} (hd : cap ∣ 65536) (m : Memory) (c : Half) (bs : List Byte) (i : Nat)
    (hi : i < bs.length) (hl : bs.length ≤ cap) :
    Memory.read (ringStores cap m c bs) ((c.toNat + i) % cap) = some bs[i] := by
  induction bs generalizing m c i with
  | nil => simp at hi
  | cons b bs ih =>
    simp only [List.length_cons] at hi hl
    have e : (c + 1).toNat % cap = (c.toNat + 1) % cap := slot_add hd c 1
    simp only [ringStores]
    cases i with
    | zero =>
      rw [read_ringStores_other hd]
      · simp [ringStore]
      · intro i' hi'
        rw [Nat.add_mod, e, ← Nat.add_mod, show c.toNat + 1 + i' = c.toNat + (i' + 1) by omega]
        exact slot_ne (by omega) (by omega)
    | succ i =>
      have := ih (ringStore cap m c b) (c + 1) i (by omega) (by omega)
      rw [Nat.add_mod, e, ← Nat.add_mod, show c.toNat + 1 + i = c.toNat + (i + 1) by omega] at this
      simpa using this

/-- Bytes stored behind the contents of a ring that has room for them are read behind the contents, in order. -/
theorem ringLoads_ringStores (free : Nat → Byte) {cap : Nat} (hd : cap ∣ 65536) (m : Memory) (tail : Half) (n : Nat)
    (bs : List Byte) (h : n + bs.length ≤ cap) :
    ringLoads free cap (ringStores cap m (tail + BitVec.ofNat 16 n) bs) tail (n + bs.length)
      = ringLoads free cap m tail n ++ bs := by
  rw [ringLoads_add]
  congr 1
  · apply List.ext_getElem (by simp)
    intro i h1 h2
    rw [length_ringLoads] at h1
    rw [getElem_ringLoads, getElem_ringLoads]
    unfold ringLoad
    rw [slot_add hd, read_ringStores_other hd]
    intro j hj
    have e := slot_add hd tail n
    rw [Nat.add_mod, e, ← Nat.add_mod, show tail.toNat + n + j = (tail.toNat + i) + (n - i + j) by omega]
    exact slot_ne (by omega) (by omega)
  · apply List.ext_getElem (by simp)
    intro i h1 h2
    rw [getElem_ringLoads]
    unfold ringLoad
    rw [slot_add hd, read_ringStores_same hd m _ bs i h2 (by omega)]
    rfl

/-! ## Counts -/

/-- `head = tail + count`. -/
theorem head_eq_tail_add (rb : Ring) : rb.head = rb.tail + BitVec.ofNat 16 rb.count := by
  unfold Ring.count
  rw [BitVec.ofNat_toNat, BitVec.setWidth_eq, BitVec.add_comm, BitVec.sub_add_cancel]

theorem ring_count_lt (rb : Ring) : rb.count < 65536 := (rb.head - rb.tail).isLt

/-- The producer adds `k` (spec/20_memory.md R79). -/
theorem ring_count_produce (buf : Memory) (rb : Ring) (k : Nat) (h : rb.count + k < 65536) :
    Ring.count ⟨buf, rb.head + BitVec.ofNat 16 k, rb.tail⟩ = rb.count + k := by
  have e : rb.head + BitVec.ofNat 16 k - rb.tail = (rb.head - rb.tail) + BitVec.ofNat 16 k := by
    rw [BitVec.sub_eq_add_neg, BitVec.sub_eq_add_neg, BitVec.add_assoc, BitVec.add_comm (BitVec.ofNat 16 k),
      BitVec.add_assoc]
  unfold Ring.count at h ⊢
  rw [e, BitVec.toNat_add, BitVec.toNat_ofNat]
  omega

/-- The consumer removes `k` (spec/20_memory.md R79). -/
theorem ring_count_consume (buf : Memory) (rb : Ring) (k : Nat) (h : k ≤ rb.count) :
    Ring.count ⟨buf, rb.head, rb.tail + BitVec.ofNat 16 k⟩ = rb.count - k := by
  have e : rb.head - (rb.tail + BitVec.ofNat 16 k) = (rb.head - rb.tail) - BitVec.ofNat 16 k := by
    apply BitVec.eq_of_toNat_eq
    simp only [BitVec.toNat_sub, BitVec.toNat_add, BitVec.toNat_ofNat]
    have := rb.head.isLt
    have := rb.tail.isLt
    omega
  have hl := ring_count_lt rb
  unfold Ring.count at h hl ⊢
  rw [e, BitVec.toNat_sub, BitVec.toNat_ofNat]
  omega

end Sys2Proof.Machine
end

