-- ==== Sys2Proof/Laws/Bulk.lean ====
section
/-! SUPPORT. The parts of the bulk path (spec/43_bulk.md) and the micro-steps of a whole bridge operation
(spec/45_bridge.md). -/

namespace Sys2Proof.Machine

/-! ## Endpoint 1, device to host -/

theorem armIn_of_ready {n : Nat} {s : State} (h1 : s.ep1.configured = true) (h2 : s.bdtConfigured1 = true)
    (hn : n ≤ 64) : armIn n s = .next (s.ep1Armed n) := by
  have hc : (BitVec.ofNat 16 n).toNat ≤ 64 := by rw [BitVec.toNat_ofNat]; omega
  exact (andThen_of_next (setTxCount_of_configured (e := .ep1) h2 hc) _).trans
    (andThen_of_next (setStatus_of_configured (e := .ep1) (s := s.setBdt .ep1
      { s.bdt .ep1 with txCount := BitVec.ofNat 16 n }) .tx .valid h1) _)

/-- The bytes `TryStartIn` takes from the TX ring. -/
def State.nextIn (s : State) : List Byte :=
  ringLoads Config.txRingPowerOn s.params.txCap s.txrb.buf s.txrb.tail (min Config.maxPacket s.txrb.count)

@[simp] theorem length_nextIn (s : State) : s.nextIn.length = min 64 s.txrb.count := by
  simp [State.nextIn, Config.maxPacket]

/-- The block after the first branch of `TryStartIn`. -/
def State.inStarted (s : State) : State :=
  { s.ep1Armed (min 64 s.txrb.count) with
    txrb := { s.txrb with tail := s.txrb.tail + BitVec.ofNat 16 (min 64 s.txrb.count) }
    pma := writtenPma s s.bdt1.txOffset.toNat s.nextIn
    draws := writtenDraws s s.bdt1.txOffset.toNat s.nextIn }

theorem tryStartIn_of_ready {after : Bool} {s : State} (h : s.ep1Ready) :
    ∃ t, tryStartIn after s = .next t ∧ InTried after s t := by
  obtain ⟨h1, h2, h3⟩ := h
  by_cases hc : 0 < s.txrb.count
  · have hw : pmaWrite s.bdt1.txOffset.toNat s.nextIn s = .next { s with
        pma := writtenPma s s.bdt1.txOffset.toNat s.nextIn
        draws := writtenDraws s s.bdt1.txOffset.toNat s.nextIn } :=
      pmaWrite_of_inside (by rw [length_nextIn]; exact Nat.min_le_left _ _) h3.1 h3.2.2.1
        (by rw [length_nextIn]; have := h3.2.2.2.2.2.2.2.2.1; omega)
    have e : tryStartIn after s = .next s.inStarted := by
      refine (if_pos hc).trans ((andThen_of_next hw _).trans ?_)
      exact armIn_of_ready (n := min 64 s.txrb.count) (s := { s with
        pma := writtenPma s s.bdt1.txOffset.toNat s.nextIn
        draws := writtenDraws s s.bdt1.txOffset.toNat s.nextIn
        txrb := { s.txrb with tail := s.txrb.tail + BitVec.ofNat 16 (min 64 s.txrb.count) } }) h1 h2
        (Nat.min_le_left _ _)
    have hk : min 64 s.txrb.count ≤ s.txrb.count := Nat.min_le_right _ _
    refine ⟨s.inStarted, e, ?_⟩
    unfold InTried
    refine (if_pos hc).mpr ⟨rfl, ?_, ?_, ?_⟩
    · have := pmaBytes_written s s.inStarted s.bdt1.txOffset.toNat s.nextIn rfl
      rw [length_nextIn] at this
      rw [this]
      exact (take_ringLoads _ _ _ _ hk).symm
    · refine Eq.trans ?_ (drop_ringLoads _ _ _ _ hk).symm
      show ringLoads _ _ _ _ (Ring.count ⟨s.txrb.buf, s.txrb.head, s.txrb.tail + _⟩) = _
      rw [ring_count_consume s.txrb.buf s.txrb _ hk]
      rfl
    · have := samePmaOutside_written s s.inStarted s.bdt1.txOffset.toNat s.nextIn rfl
      rwa [length_nextIn] at this
  · by_cases hz : s.params.txZlp = true ∧ after = true ∧ s.ep1TxLastLen = 64
    · refine ⟨s.ep1Armed 0, ?_, ?_⟩
      · exact (if_neg hc).trans ((if_pos hz).trans (armIn_of_ready h1 h2 (by decide)))
      · unfold InTried
        exact (if_neg hc).mpr ((if_pos hz).mpr rfl)
    · refine ⟨s, (if_neg hc).trans (if_neg hz), ?_⟩
      unfold InTried
      exact (if_neg hc).mpr ((if_neg hz).mpr rfl)

/-! ## Endpoint 1, host to device -/

/-- The contents of the RX ring after a received packet's first bytes were stored. -/
theorem rxContents_appendRx {s : State} {d : List Byte} {k : Nat} (hd : Params.capOk s.params.rxCap = true)
    (hk : k ≤ d.length) (hs : s.rxrb.count + k ≤ s.params.rxCap) :
    (appendRx d k s).rxContents = s.rxContents ++ d.take k := by
  have hl := capOk_le hd
  have hc : (appendRx d k s).rxrb.count = s.rxrb.count + k := ring_count_produce _ s.rxrb k (by omega)
  have ht : (d.take k).length = k := by simp [hk]
  have := ringLoads_ringStores Config.rxRingPowerOn (capOk_dvd hd) s.rxrb.buf s.rxrb.tail s.rxrb.count (d.take k)
    (by omega)
  rw [ht, ← head_eq_tail_add] at this
  unfold State.rxContents
  rw [hc]
  exact this

/-! ## Whole bridge operations -/

/-- The state inside a `BR.WRITE` that has stored `i` of its `k` bytes. -/
def State.writing (s : State) (bytes : List Byte) (k i : Nat) : State :=
  { s with
    txrb := { s.txrb with buf := ringStores s.params.txCap s.txrb.buf s.txrb.head (bytes.take i) }
    appOp := some ⟨.write, s.txrb.head, s.txrb.tail, k, i, bytes⟩ }

theorem ringStores_append (cap : Nat) (m : Memory) (c : Half) (as bs : List Byte) :
    ringStores cap m c (as ++ bs)
      = ringStores cap (ringStores cap m c as) (c + BitVec.ofNat 16 as.length) bs := by
  induction as generalizing m c with
  | nil => simp [ringStores]
  | cons a as ih => simp only [List.cons_append, ringStores, ih, List.length_cons, half_add_one_add]

theorem appMicroStep_writing {s : State} {bytes : List Byte} {k i : Nat} (hi : i < k) (hk : k ≤ bytes.length) :
    appMicroStep (s.writing bytes k i) = .next (s.writing bytes k (i + 1)) := by
  have hb : i < bytes.length := by omega
  have e : bytes.take (i + 1) = bytes.take i ++ [bytes[i]] := by simp
  have hlen : (bytes.take i).length = i := by simp; omega
  simp only [appMicroStep, State.writing, hi, if_true, List.getElem?_eq_getElem hb, writeOne]
  rw [e, ringStores_append, hlen]
  rfl

/-- The state after `BR.WRITE` accepted `k` bytes. -/
def State.wrote (s : State) (bytes : List Byte) (k : Nat) : State :=
  { s with
    txrb := {
      buf := ringStores s.params.txCap s.txrb.buf s.txrb.head (bytes.take k)
      head := s.txrb.head + BitVec.ofNat 16 k
      tail := s.txrb.tail }
    appOp := none
    appResult := .accepted k }

theorem microSteps_writing {s : State} {bytes : List Byte} {k : Nat} (hk : k ≤ bytes.length) (d i : Nat)
    (hi : i + d = k) : microSteps (d + 1) (s.writing bytes k i) = .next (s.wrote bytes k) := by
  induction d generalizing i with
  | zero =>
    subst hi
    simp [microSteps, State.writing, appMicroStep, publishWrite, State.wrote]
  | succ d ih =>
    show andThen (appMicroStep (s.writing bytes k i)) (microSteps (d + 1)) = _
    rw [appMicroStep_writing (by omega) hk, andThen_next]
    exact ih (i + 1) (by omega)

/-- `BR.WRITE` on one line. -/
theorem wholeWrite_of_free {s : State} (bytes : List Byte) (h : s.appOp = none) :
    wholeWrite bytes s = .next (s.wrote bytes (min bytes.length (s.params.txCap - s.txrb.count))) := by
  have hk : min bytes.length (s.params.txCap - s.txrb.count) ≤ bytes.length := Nat.min_le_left _ _
  have e : execBrWrite bytes s
      = .next (s.writing bytes (min bytes.length (s.params.txCap - s.txrb.count)) 0) := by
    simp [execBrWrite, startBridge, h, State.writing, ringStores, Ring.space]
  unfold wholeWrite
  rw [e, andThen_next]
  exact microSteps_writing hk _ 0 (Nat.zero_add _)

/-- The contents of the TX ring after `BR.WRITE`. -/
theorem txContents_wrote {s : State} {bytes : List Byte} {k : Nat} (hd : Params.capOk s.params.txCap = true)
    (hk : k ≤ bytes.length) (hs : s.txrb.count + k ≤ s.params.txCap) :
    (s.wrote bytes k).txContents = s.txContents ++ bytes.take k ∧ (s.wrote bytes k).txrb.count = s.txrb.count + k := by
  have hl := capOk_le hd
  have hc : (s.wrote bytes k).txrb.count = s.txrb.count + k := ring_count_produce _ s.txrb k (by omega)
  have ht : (bytes.take k).length = k := by simp [hk]
  have := ringLoads_ringStores Config.txRingPowerOn (capOk_dvd hd) s.txrb.buf s.txrb.tail s.txrb.count
    (bytes.take k) (by omega)
  rw [ht, ← head_eq_tail_add] at this
  refine ⟨?_, hc⟩
  unfold State.txContents
  rw [hc]
  exact this

/-- The state inside a `BR.READ` that has loaded `i` of its `k` bytes. -/
def State.reading (s : State) (k i : Nat) : State :=
  { s with appOp := some ⟨.read, s.rxrb.head, s.rxrb.tail, k, i,
      ringLoads Config.rxRingPowerOn s.params.rxCap s.rxrb.buf s.rxrb.tail i⟩ }

theorem appMicroStep_reading {s : State} {k i : Nat} (hi : i < k) :
    appMicroStep (s.reading k i) = .next (s.reading k (i + 1)) := by
  simp only [appMicroStep, State.reading, hi, if_true, readOne]
  rw [ringLoads_add]
  rfl

/-- The state after `BR.READ` took `k` bytes. -/
def State.hasRead (s : State) (k : Nat) : State :=
  { s with
    rxrb := { s.rxrb with tail := s.rxrb.tail + BitVec.ofNat 16 k }
    appOp := none
    appResult := .filled k (ringLoads Config.rxRingPowerOn s.params.rxCap s.rxrb.buf s.rxrb.tail k) }

theorem microSteps_reading {s : State} {k : Nat} (d i : Nat) (hi : i + d = k) :
    microSteps (d + 1) (s.reading k i) = .next (s.hasRead k) := by
  induction d generalizing i with
  | zero =>
    subst hi
    simp [microSteps, State.reading, appMicroStep, publishRead, State.hasRead]
  | succ d ih =>
    show andThen (appMicroStep (s.reading k i)) (microSteps (d + 1)) = _
    rw [appMicroStep_reading (by omega), andThen_next]
    exact ih (i + 1) (by omega)

/-- `BR.READ` on one line. -/
theorem wholeRead_of_free {s : State} (m : Nat) (h : s.appOp = none) :
    wholeRead m s = .next (s.hasRead (min m s.rxrb.count)) := by
  have e : execBrRead m s = .next (s.reading (min m s.rxrb.count) 0) := by
    simp [execBrRead, startBridge, h, State.reading, ringLoads]
  unfold wholeRead
  rw [e, andThen_next]
  exact microSteps_reading _ 0 (Nat.zero_add _)

end Sys2Proof.Machine
end

