-- ==== Sys2Proof/Laws/Decode.lean ====
section
/-! SUPPORT. Each reader of the decoder gives back what the matching writer of the encoder wrote. -/

namespace Sys2Proof

@[simp] theorem andRead_ok {α β : Type} (a : α) (bs : List Byte) (f : α → List Byte → Decoded β) :
    andRead (.ok (a, bs)) f = f a bs := rfl

@[simp] theorem andRead_error {α β : Type} (e : DecodeError) (f : α → List Byte → Decoded β) :
    andRead (.error e) f = .error e := rfl

/-- A sequence of readers succeeds exactly when its parts do. -/
theorem andRead_eq_ok {α β : Type} {r : Decoded α} {f : α → List Byte → Decoded β} {x : β × List Byte} :
    andRead r f = .ok x ↔ ∃ a bs, r = .ok (a, bs) ∧ f a bs = .ok x := by
  cases r with
  | ok p => obtain ⟨a, bs⟩ := p; simp [andRead]
  | error e => simp [andRead]

theorem half_append_bytes (v : Half) : v.extractLsb' 8 8 ++ v.extractLsb' 0 8 = v := by
  ext i hi
  simp only [BitVec.getElem_append, BitVec.getElem_extractLsb']
  split
  · simp [BitVec.getLsbD_eq_getElem hi]
  · rw [show 8 + (i - 8) = i by omega, BitVec.getLsbD_eq_getElem hi]

@[simp] theorem readHalf_bytesLe16 (v : Half) (bs : List Byte) : readHalf (bytesLe16 v ++ bs) = .ok (v, bs) := by
  simp [readHalf, bytesLe16, half_append_bytes]

theorem readNumber_replicate (k : Nat) {n : Nat} {bs rest : List Byte} (h : readNumber bs = .ok (n, rest)) :
    readNumber (List.replicate k 0xFF ++ bs) = .ok (n + 255 * k, rest) := by
  induction k with
  | zero => simpa using h
  | succ k ih =>
    rw [List.replicate_succ, List.cons_append, readNumber, if_pos rfl, ih]
    exact congrArg (fun m => Except.ok (m, rest)) (by omega)

@[simp] theorem readNumber_numberBytes (n : Nat) (bs : List Byte) : readNumber (numberBytes n ++ bs) = .ok (n, bs) := by
  have hm : n % 255 < 255 := Nat.mod_lt _ (by decide)
  have hn : (BitVec.ofNat 8 (n % 255)).toNat = n % 255 := Nat.mod_eq_of_lt (by omega)
  have last : readNumber (BitVec.ofNat 8 (n % 255) :: bs) = .ok (n % 255, bs) := by
    rw [readNumber, if_neg (fun e => by have := congrArg BitVec.toNat e; rw [hn] at this; simp at this; omega), hn]
  rw [numberBytes, List.append_assoc, List.singleton_append, readNumber_replicate _ last]
  exact congrArg (fun m => Except.ok (m, bs)) (Nat.mod_add_div n 255)

/-- What `readNumber` reads is what `numberBytes` writes: a number has one encoding. -/
theorem readNumber_eq_ok {bs rest : List Byte} {n : Nat} (h : readNumber bs = .ok (n, rest)) :
    bs = numberBytes n ++ rest := by
  induction bs generalizing n with
  | nil => simp [readNumber] at h
  | cons b bs ih =>
    rw [readNumber] at h
    split at h
    · rename_i hb
      obtain ⟨m, r, hr, he⟩ := andRead_eq_ok.mp h
      obtain ⟨rfl, rfl⟩ : m + 255 = n ∧ r = rest := by simpa using he
      rw [ih hr, hb]
      simp [numberBytes, Nat.add_div_right, List.replicate_succ]
    · rename_i hb
      obtain ⟨rfl, rfl⟩ : b.toNat = n ∧ bs = rest := by simpa using h
      have h256 := b.isLt
      have : b.toNat ≠ 255 := fun e => hb (BitVec.eq_of_toNat_eq e)
      have hlt : b.toNat < 255 := by omega
      simp [numberBytes, Nat.div_eq_of_lt hlt, Nat.mod_eq_of_lt hlt]

@[simp] theorem readEp_number (e : Ep) (bs : List Byte) : readEp (e.number :: bs) = .ok (e, bs) := by
  cases e <;> rfl

@[simp] theorem readDir_code (d : Dir) (bs : List Byte) : readDir (d.code :: bs) = .ok (d, bs) := by
  cases d <;> rfl

@[simp] theorem readEpType_code (t : EpType) (bs : List Byte) : readEpType (t.code :: bs) = .ok (t, bs) := by
  cases t <;> rfl

@[simp] theorem readStatus_code (s : Status) (bs : List Byte) : readStatus (s.code :: bs) = .ok (s, bs) := by
  cases s <;> rfl

@[simp] theorem readBool_code (b : Bool) (bs : List Byte) : readBool (boolCode b :: bs) = .ok (b, bs) := by
  cases b <;> rfl

@[simp] theorem readAddr_setWidth (a : BitVec 7) (bs : List Byte) : readAddr (a.setWidth 8 :: bs) = .ok (a, bs) := by
  have h : a.toNat % 2 ^ 8 = a.toNat := Nat.mod_eq_of_lt (by have := a.isLt; omega)
  have h2 : a.toNat < 128 := a.isLt
  simp only [readAddr, BitVec.toNat_setWidth, h, h2, if_true, BitVec.ofNat_toNat, BitVec.setWidth_eq]

@[simp] theorem readEndp_setWidth (a : BitVec 4) (bs : List Byte) : readEndp (a.setWidth 8 :: bs) = .ok (a, bs) := by
  have h : a.toNat % 2 ^ 8 = a.toNat := Nat.mod_eq_of_lt (by have := a.isLt; omega)
  have h2 : a.toNat < 16 := a.isLt
  simp only [readEndp, BitVec.toNat_setWidth, h, h2, if_true, BitVec.ofNat_toNat, BitVec.setWidth_eq]

theorem readBytes_append (data bs : List Byte) : readBytes data.length (data ++ bs) = .ok (data, bs) := by
  simp [readBytes]

@[simp] theorem readString_stringBytes (data bs : List Byte) : readString (stringBytes data ++ bs) = .ok (data, bs) := by
  simp only [readString, stringBytes, List.append_assoc, readNumber_numberBytes, andRead_ok, readBytes_append]

end Sys2Proof
end

