-- ==== Sys2Proof/Laws/Frame.lean ====
section
/-! SUPPORT. The frames of the two endpoints' work: what every body and every request leaves alone whenever it answers a
next state, proved part by part. -/

namespace Sys2Proof.Machine

/-! ## The frames -/

/-- What the work of endpoint 0 never touches. -/
structure OutsideEp0 (s t : State) : Prop where
  params : t.params = s.params
  lifecycle : t.lifecycle = s.lifecycle
  inputs : t.inputs = s.inputs
  fatal : t.fatal = s.fatal
  bdt1 : t.bdt1 = s.bdt1
  bdtConfigured0 : t.bdtConfigured0 = s.bdtConfigured0
  bdtConfigured1 : t.bdtConfigured1 = s.bdtConfigured1
  istat : t.istat = s.istat
  dispSnap : t.dispSnap = s.dispSnap
  rxrb : t.rxrb = s.rxrb
  txrb : t.txrb = s.txrb
  overrunCount : t.overrunCount = s.overrunCount
  appOp : t.appOp = s.appOp
  busResp : t.busResp = s.busResp
  appResult : t.appResult = s.appResult
  cmdResult : t.cmdResult = s.cmdResult

theorem OutsideEp0.refl (s : State) : OutsideEp0 s s := by constructor <;> rfl

theorem OutsideEp0.trans {s t u : State} (h : OutsideEp0 s t) (g : OutsideEp0 t u) : OutsideEp0 s u where
  params := g.params.trans h.params
  lifecycle := g.lifecycle.trans h.lifecycle
  inputs := g.inputs.trans h.inputs
  fatal := g.fatal.trans h.fatal
  bdt1 := g.bdt1.trans h.bdt1
  bdtConfigured0 := g.bdtConfigured0.trans h.bdtConfigured0
  bdtConfigured1 := g.bdtConfigured1.trans h.bdtConfigured1
  istat := g.istat.trans h.istat
  dispSnap := g.dispSnap.trans h.dispSnap
  rxrb := g.rxrb.trans h.rxrb
  txrb := g.txrb.trans h.txrb
  overrunCount := g.overrunCount.trans h.overrunCount
  appOp := g.appOp.trans h.appOp
  busResp := g.busResp.trans h.busResp
  appResult := g.appResult.trans h.appResult
  cmdResult := g.cmdResult.trans h.cmdResult

/-- What the work of endpoint 1 never touches. -/
structure OutsideEp1 (s t : State) : Prop where
  params : t.params = s.params
  lifecycle : t.lifecycle = s.lifecycle
  inputs : t.inputs = s.inputs
  devState : t.devState = s.devState
  devAddr : t.devAddr = s.devAddr
  pendingAddr : t.pendingAddr = s.pendingAddr
  fatal : t.fatal = s.fatal
  ep0 : t.ep0 = s.ep0
  configured : t.ep1.configured = s.ep1.configured
  bdt0 : t.bdt0 = s.bdt0
  bdtConfigured0 : t.bdtConfigured0 = s.bdtConfigured0
  bdtConfigured1 : t.bdtConfigured1 = s.bdtConfigured1
  ct : t.ct = s.ct
  lineCoding : t.lineCoding = s.lineCoding
  istat : t.istat = s.istat
  dispSnap : t.dispSnap = s.dispSnap
  rxTail : t.rxrb.tail = s.rxrb.tail
  txHead : t.txrb.head = s.txrb.head
  txBuf : t.txrb.buf = s.txrb.buf
  appOp : t.appOp = s.appOp
  busResp : t.busResp = s.busResp
  appResult : t.appResult = s.appResult
  cmdResult : t.cmdResult = s.cmdResult

theorem OutsideEp1.refl (s : State) : OutsideEp1 s s := by constructor <;> rfl

theorem OutsideEp1.trans {s t u : State} (h : OutsideEp1 s t) (g : OutsideEp1 t u) : OutsideEp1 s u where
  params := g.params.trans h.params
  lifecycle := g.lifecycle.trans h.lifecycle
  inputs := g.inputs.trans h.inputs
  devState := g.devState.trans h.devState
  devAddr := g.devAddr.trans h.devAddr
  pendingAddr := g.pendingAddr.trans h.pendingAddr
  fatal := g.fatal.trans h.fatal
  ep0 := g.ep0.trans h.ep0
  configured := g.configured.trans h.configured
  bdt0 := g.bdt0.trans h.bdt0
  bdtConfigured0 := g.bdtConfigured0.trans h.bdtConfigured0
  bdtConfigured1 := g.bdtConfigured1.trans h.bdtConfigured1
  ct := g.ct.trans h.ct
  lineCoding := g.lineCoding.trans h.lineCoding
  istat := g.istat.trans h.istat
  dispSnap := g.dispSnap.trans h.dispSnap
  rxTail := g.rxTail.trans h.rxTail
  txHead := g.txHead.trans h.txHead
  txBuf := g.txBuf.trans h.txBuf
  appOp := g.appOp.trans h.appOp
  busResp := g.busResp.trans h.busResp
  appResult := g.appResult.trans h.appResult
  cmdResult := g.cmdResult.trans h.cmdResult

/-! ## Parts of the control endpoint's work -/

theorem setStatus0_frame {d : Dir} {st : Status} {s t : State} (h : setStatus .ep0 d st s = .next t) :
    OutsideEp0 s t := by
  rw [setStatus_eq_next] at h
  rw [h.2]
  constructor <;> rfl

theorem toggle0_frame {d : Dir} {s t : State} (h : toggleData .ep0 d s = .next t) : OutsideEp0 s t := by
  rw [toggleData_eq_next] at h
  rw [h.2]
  constructor <;> rfl

theorem setTxCount0_frame {n : Half} {s t : State} (h : setTxCount .ep0 n s = .next t) : OutsideEp0 s t := by
  rw [setTxCount_eq_next] at h
  rw [h.2.2]
  constructor <;> rfl

theorem pmaWrite_frame0 {a : Nat} {bs : List Byte} {s t : State} (h : pmaWrite a bs s = .next t) : OutsideEp0 s t := by
  rw [pmaWrite_eq_next] at h
  rw [h.2]
  constructor <;> rfl

theorem stall0_frame {s t : State} (h : stall0 s = .next t) : OutsideEp0 s t := by
  rw [stall0_eq_next] at h
  rw [h.2]
  constructor <;> rfl

/-- A change of the transfer object is inside endpoint 0. -/
theorem setCt_frame (s : State) (c : Option ControlTransfer) : OutsideEp0 s { s with ct := c } := by
  constructor <;> rfl

theorem startStatusIn_frame {c : ControlTransfer} {s t : State} (h : startStatusIn c s = .next t) :
    OutsideEp0 s t := by
  obtain ⟨u, h1, h2⟩ := andThen_eq_next.1 h
  exact (setCt_frame s _).trans ((setTxCount0_frame h1).trans (setStatus0_frame h2))

theorem sendChunk_frame {c : ControlTransfer} {s t : State} (h : sendChunk c s = .next t) : OutsideEp0 s t := by
  obtain ⟨u, h1, h2⟩ := andThen_eq_next.1 h
  obtain ⟨v, h3, h4⟩ := andThen_eq_next.1 h2
  exact (pmaWrite_frame0 h1).trans ((setCt_frame u _).trans ((setTxCount0_frame h3).trans (setStatus0_frame h4)))

theorem startDataIn_frame {resp : List Byte} {c : ControlTransfer} {s t : State}
    (h : startDataIn resp c s = .next t) : OutsideEp0 s t := by
  unfold startDataIn at h
  split at h
  · exact startStatusIn_frame h
  · obtain ⟨u, h1, h2⟩ := andThen_eq_next.1 h
    exact (sendChunk_frame h1).trans (setStatus0_frame h2)

/-! ## The requests and the bodies of the control endpoint -/

/-- The operation that step 5 of `CTRL.SETUP` performs. -/
theorem performRequest_eq_exec (rt rq : Byte) (v i l : Half) (s : State) :
    performRequest rt rq v i l s = exec (requestInstr (selectRequest rt rq) rt rq v i l) s := by
  unfold performRequest
  cases selectRequest rt rq <;> rfl

theorem performRequest_frame {rt rq : Byte} {v i l : Half} {s t : State}
    (h : performRequest rt rq v i l s = .next t) : OutsideEp0 s t := by
  unfold performRequest at h
  split at h
  · exact startDataIn_frame h
  · unfold execReqSetAddress at h
    split at h
    · exact stall0_frame h
    · exact OutsideEp0.trans (by constructor <;> rfl) (startStatusIn_frame h)
  · unfold execReqGetDescriptor at h
    split at h
    · exact stall0_frame h
    · exact startDataIn_frame h
  · unfold execReqSetConfiguration at h
    split at h
    · exact stall0_frame h
    · exact OutsideEp0.trans (by constructor <;> rfl) (startStatusIn_frame h)
  · unfold execReqSetLineCoding at h
    split at h
    · exact stall0_frame h
    · exact OutsideEp0.trans (by constructor <;> rfl) (setStatus0_frame h)
  · exact startDataIn_frame h
  · unfold execReqSetControlLineState at h
    split at h
    · exact stall0_frame h
    · exact startStatusIn_frame h
  · exact stall0_frame h

theorem abortTransfer_eq_next {s t : State} (h : abortTransfer s = .next t) :
    s.ep0.configured = true ∧ t = s.aborted := by
  obtain ⟨u, h1, _⟩ := andThen_eq_next.1 h
  have hc : s.ep0.configured = true := (setStatus_eq_next.1 h1).1
  rw [abortTransfer_of_configured hc] at h
  exact ⟨hc, (Host.Outcome.next.inj h).symm⟩

theorem aborted_frame (s : State) : OutsideEp0 s s.aborted := by constructor <;> rfl

theorem ctrlSetup_frame {s t : State} (h : execCtrlSetup s = .next t) : OutsideEp0 s t := by
  obtain ⟨u, h1, h2⟩ := andThen_eq_next.1 h
  obtain ⟨-, rfl⟩ := abortTransfer_eq_next h1
  obtain ⟨n, -, h3⟩ := withValue_eq_next.1 h2
  split at h3
  · exact (aborted_frame s).trans (stall0_frame h3)
  · obtain ⟨p, -, h4⟩ := withValue_eq_next.1 h3
    exact (aborted_frame s).trans (performRequest_frame h4)

theorem advanceDataIn_frame {c : ControlTransfer} {s t : State} (h : advanceDataIn c s = .next t) :
    OutsideEp0 s t := by
  unfold advanceDataIn at h
  dsimp only at h
  split at h
  · exact sendChunk_frame h
  · split at h
    · obtain ⟨u, h1, h2⟩ := andThen_eq_next.1 h
      exact (setCt_frame s _).trans ((setTxCount0_frame h1).trans (setStatus0_frame h2))
    · cases h
      exact setCt_frame s _

theorem applyStagedAddress_frame (s : State) : OutsideEp0 s (applyStagedAddress s) := by
  unfold applyStagedAddress
  split <;> constructor <;> rfl

theorem ctrlInDone_frame {s t : State} (h : execCtrlInDone s = .next t) : OutsideEp0 s t := by
  obtain ⟨u, h1, h2⟩ := andThen_eq_next.1 h
  refine (toggle0_frame h1).trans ?_
  split at h2
  · cases h2
    exact OutsideEp0.refl _
  · split at h2
    · exact advanceDataIn_frame h2
    · split at h2
      · cases h2
        exact (applyStagedAddress_frame u).trans (setCt_frame _ _)
      · cases h2
        exact OutsideEp0.refl _

theorem ctrlOutDone_frame {s t : State} (h : execCtrlOutDone s = .next t) : OutsideEp0 s t := by
  obtain ⟨u, h1, h2⟩ := andThen_eq_next.1 h
  refine (toggle0_frame h1).trans ?_
  split at h2
  · cases h2
    exact OutsideEp0.refl _
  · split at h2
    · obtain ⟨n, -, h3⟩ := withValue_eq_next.1 h2
      split at h3
      · exact stall0_frame h3
      · obtain ⟨q, -, h4⟩ := withValue_eq_next.1 h3
        exact OutsideEp0.trans (by constructor <;> rfl) (startStatusIn_frame h4)
    · split at h2
      · obtain ⟨v, h3, h4⟩ := andThen_eq_next.1 h2
        cases h4
        exact (setStatus0_frame h3).trans (setCt_frame _ _)
      · cases h2
        exact OutsideEp0.refl _

/-! ## The bulk endpoint -/

theorem setStatus1_frame {d : Dir} {st : Status} {s t : State} (h : setStatus .ep1 d st s = .next t) :
    OutsideEp1 s t := by
  rw [setStatus_eq_next] at h
  rw [h.2]
  constructor <;> first | rfl | exact request_configured _ _ _

theorem toggle1_frame {d : Dir} {s t : State} (h : toggleData .ep1 d s = .next t) : OutsideEp1 s t := by
  rw [toggleData_eq_next] at h
  rw [h.2]
  constructor <;> first | rfl | exact flip_configured _ _

theorem setTxCount1_frame {n : Half} {s t : State} (h : setTxCount .ep1 n s = .next t) : OutsideEp1 s t := by
  rw [setTxCount_eq_next] at h
  rw [h.2.2]
  constructor <;> rfl

theorem pmaWrite_frame1 {a : Nat} {bs : List Byte} {s t : State} (h : pmaWrite a bs s = .next t) : OutsideEp1 s t := by
  rw [pmaWrite_eq_next] at h
  rw [h.2]
  constructor <;> rfl

theorem armIn_frame {n : Nat} {s t : State} (h : armIn n s = .next t) : OutsideEp1 s t := by
  obtain ⟨u, h1, h2⟩ := andThen_eq_next.1 h
  obtain ⟨v, h3, h4⟩ := andThen_eq_next.1 h2
  cases h4
  exact (setTxCount1_frame h1).trans ((setStatus1_frame h3).trans (by constructor <;> rfl))

theorem tryStartIn_frame {after : Bool} {s t : State} (h : tryStartIn after s = .next t) : OutsideEp1 s t := by
  unfold tryStartIn at h
  dsimp only at h
  split at h
  · obtain ⟨u, h1, h2⟩ := andThen_eq_next.1 h
    exact (pmaWrite_frame1 h1).trans (OutsideEp1.trans (by constructor <;> rfl) (armIn_frame h2))
  · split at h
    · exact armIn_frame h
    · cases h
      exact OutsideEp1.refl _

theorem recordOverrun_frame (n k : Nat) (s : State) : OutsideEp1 s (recordOverrun n k s) := by
  unfold recordOverrun
  split <;> constructor <;> rfl

theorem bulkOutDone_frame {s t : State} (h : execBulkOutDone s = .next t) : OutsideEp1 s t := by
  unfold execBulkOutDone at h
  split at h
  · cases h
    exact OutsideEp1.refl _
  · obtain ⟨n, -, h1⟩ := withValue_eq_next.1 h
    obtain ⟨d, -, h2⟩ := withValue_eq_next.1 h1
    obtain ⟨u, h3, h4⟩ := andThen_eq_next.1 h2
    exact OutsideEp1.trans (by constructor <;> rfl)
      ((recordOverrun_frame _ _ _).trans ((toggle1_frame h3).trans (setStatus1_frame h4)))

theorem bulkInDone_frame {s t : State} (h : execBulkInDone s = .next t) : OutsideEp1 s t := by
  unfold execBulkInDone at h
  split at h
  · cases h
    exact OutsideEp1.refl _
  · obtain ⟨u, h1, h2⟩ := andThen_eq_next.1 h
    exact (toggle1_frame h1).trans (OutsideEp1.trans (by constructor <;> rfl) (tryStartIn_frame h2))

theorem bulkKick_frame {s t : State} (h : execBulkKick s = .next t) : OutsideEp1 s t := by
  unfold execBulkKick at h
  split at h
  · exact tryStartIn_frame h
  · cases h
    exact OutsideEp1.refl _

end Sys2Proof.Machine
end

