-- ==== Sys2Proof/Laws/PerInstr.lean ====
section
/-! SUPPORT. One lemma per constructor: the encoding of an operation is on the interface of its row of
spec/opcode_table.json and carries that row's match bits under its mask; a body of a handler has no encoding. -/

namespace Sys2Proof.Laws.OpByte

/-- The first 16 bits of a word, the first byte at bits 7:0 (a shorter word has zeros above). -/
def lowBits (bytes : List Byte) : Half := le16 bytes 0

/-- The format, mask and match of an operation's row; `none` for the rows of format H. -/
def row : Instr → Option (Format × Half × Half)
  | .init => some (.P, 0xFF, 0x00)
  | .bdtConfigure _ _ _ _ => some (.C, 0xFF, 0x10)
  | .bdtSetTxCount _ _ => some (.C, 0xFF, 0x11)
  | .bdtReadRxCount _ => some (.C, 0xFF, 0x12)
  | .epConfigure _ _ _ _ => some (.C, 0xFF, 0x20)
  | .epSetStatus _ _ _ => some (.C, 0xFF, 0x21)
  | .epToggle _ _ => some (.C, 0xFF, 0x22)
  | .brWrite _ => some (.A, 0xFF, 0x30)
  | .brRead _ => some (.A, 0xFF, 0x31)
  | .brAvail => some (.A, 0xFF, 0x32)
  | .brSpace => some (.A, 0xFF, 0x33)
  | .brOverrun => some (.A, 0xFF, 0x34)
  | .brKick => some (.A, 0xFF, 0x35)
  | .dispatch _ => some (.E, 0xF8C0, 0x0000)
  | .evReset => some (.E, 0x0100, 0x0100)
  | .evSuspend => some (.E, 0x0200, 0x0200)
  | .evWakeup => some (.E, 0x0400, 0x0400)
  | .evEp0In => some (.E, 0x0002, 0x0002)
  | .evEp0Setup => some (.E, 0x0011, 0x0011)
  | .evEp0Out => some (.E, 0x0011, 0x0001)
  | .evEp1Out => some (.E, 0x0004, 0x0004)
  | .evEp1In => some (.E, 0x0008, 0x0008)
  | .evKick => some (.E, 0x0020, 0x0020)
  | .busSetup _ _ _ => some (.B, 0xFF, 0x5D)
  | .busOut _ _ _ _ => some (.B, 0xFF, 0x51)
  | .busIn _ _ _ => some (.B, 0xFF, 0x59)
  | .busReset => some (.B, 0xFF, 0x60)
  | .busSuspend => some (.B, 0xFF, 0x61)
  | .busWakeup => some (.B, 0xFF, 0x62)
  | .reqGetStatus _ _ _ => some (.S, 0xFFFF, 0x0080)
  | .reqSetAddress _ _ _ => some (.S, 0xFFFF, 0x0500)
  | .reqGetDescriptor _ _ _ => some (.S, 0xFFFF, 0x0680)
  | .reqSetConfiguration _ _ _ => some (.S, 0xFFFF, 0x0900)
  | .reqSetLineCoding _ _ _ => some (.S, 0xFFFF, 0x2021)
  | .reqGetLineCoding _ _ _ => some (.S, 0xFFFF, 0x21A1)
  | .reqSetControlLineState _ _ _ => some (.S, 0xFFFF, 0x2221)
  | .reqUnsupported _ _ _ _ _ => some (.S, 0x0000, 0x0000)
  | .ctrlSetup => none
  | .ctrlInDone => none
  | .ctrlOutDone => none
  | .bulkOutDone => none
  | .bulkInDone => none
  | .bulkKick => none

/-- A well-formed operation's encoding is on its row's interface with the row's match under the row's mask
(for `DISPATCH`, whose row only says "nonzero": the reserved bits are zero). -/
def Statement (i : Instr) : Prop :=
  i.wellFormed = true →
    match row i with
    | none => encode i = none
    | some (f, mask, value) => ∃ bytes, encode i = some (f, bytes) ∧ lowBits bytes &&& mask = value

/-- Under the operation-byte mask only the first byte counts. -/
theorem lowBits_opByte (b : Byte) (bs : List Byte) : lowBits (b :: bs) &&& 0xFF = b.setWidth 16 := by
  have h : ∀ x b : Byte, (x ++ b : Half) &&& 0xFF = b.setWidth 16 := by
    intro x b
    ext i hi
    have e : (0xFF : Half)[i] = decide (i < 8) := by
      have : ∀ i : Fin 16, (0xFF : Half)[i.val]'i.isLt = decide (i.val < 8) := by decide
      exact this ⟨i, hi⟩
    simp only [BitVec.getElem_and, BitVec.getElem_append, e, BitVec.getElem_setWidth]
    by_cases h8 : i < 8
    · simp [h8, BitVec.getLsbD_eq_getElem]
    · simp [h8, BitVec.getLsbD_of_ge b i (by omega)]
  exact h _ _

/-- The request code of a SETUP packet: `request` above `requestType`. -/
theorem lowBits_setupBytes {rt rq : Byte} {v i l value : Half} (h : (rq ++ rt : Half) &&& 0xFFFF = value) :
    lowBits (setupBytes rt rq v i l) &&& 0xFFFF = value := h

theorem init : Statement .init := fun _ => ⟨_, rfl, lowBits_opByte _ _⟩
theorem bdtConfigure (ep : Ep) (tx rx m : Half) : Statement (.bdtConfigure ep tx rx m) :=
  fun _ => ⟨_, rfl, lowBits_opByte _ _⟩
theorem bdtSetTxCount (ep : Ep) (n : Half) : Statement (.bdtSetTxCount ep n) :=
  fun _ => ⟨_, rfl, lowBits_opByte _ _⟩
theorem bdtReadRxCount (ep : Ep) : Statement (.bdtReadRxCount ep) := fun _ => ⟨_, rfl, lowBits_opByte _ _⟩
theorem epConfigure (ep : Ep) (ty : EpType) (tx rx : Status) : Statement (.epConfigure ep ty tx rx) :=
  fun _ => ⟨_, rfl, lowBits_opByte _ _⟩
theorem epSetStatus (ep : Ep) (d : Dir) (st : Status) : Statement (.epSetStatus ep d st) :=
  fun _ => ⟨_, rfl, lowBits_opByte _ _⟩
theorem epToggle (ep : Ep) (d : Dir) : Statement (.epToggle ep d) := fun _ => ⟨_, rfl, lowBits_opByte _ _⟩
theorem brWrite (data : List Byte) : Statement (.brWrite data) := fun _ => ⟨_, rfl, lowBits_opByte _ _⟩
theorem brRead (m : Nat) : Statement (.brRead m) := fun _ => ⟨_, rfl, lowBits_opByte _ _⟩
theorem brAvail : Statement .brAvail := fun _ => ⟨_, rfl, lowBits_opByte _ _⟩
theorem brSpace : Statement .brSpace := fun _ => ⟨_, rfl, lowBits_opByte _ _⟩
theorem brOverrun : Statement .brOverrun := fun _ => ⟨_, rfl, lowBits_opByte _ _⟩
theorem brKick : Statement .brKick := fun _ => ⟨_, rfl, lowBits_opByte _ _⟩
theorem dispatch (event : Half) : Statement (.dispatch event) := by
  intro h
  refine ⟨_, rfl, ?_⟩
  have e : lowBits (bytesLe16 event) = event := half_append_bytes event
  have h1 : event &&& ~~~ eventMask = 0 := by
    simp only [Instr.wellFormed, eventWordOk, Bool.and_eq_true, beq_iff_eq] at h
    exact h.1.1.1
  rw [e]
  exact h1
theorem evReset : Statement .evReset := fun _ => ⟨_, rfl, by decide⟩
theorem evSuspend : Statement .evSuspend := fun _ => ⟨_, rfl, by decide⟩
theorem evWakeup : Statement .evWakeup := fun _ => ⟨_, rfl, by decide⟩
theorem evEp0In : Statement .evEp0In := fun _ => ⟨_, rfl, by decide⟩
theorem evEp0Setup : Statement .evEp0Setup := fun _ => ⟨_, rfl, by decide⟩
theorem evEp0Out : Statement .evEp0Out := fun _ => ⟨_, rfl, by decide⟩
theorem evEp1Out : Statement .evEp1Out := fun _ => ⟨_, rfl, by decide⟩
theorem evEp1In : Statement .evEp1In := fun _ => ⟨_, rfl, by decide⟩
theorem evKick : Statement .evKick := fun _ => ⟨_, rfl, by decide⟩
theorem busSetup (a : BitVec 7) (e : BitVec 4) (data : List Byte) : Statement (.busSetup a e data) :=
  fun _ => ⟨_, rfl, lowBits_opByte _ _⟩
theorem busOut (a : BitVec 7) (e : BitVec 4) (t : Bool) (data : List Byte) : Statement (.busOut a e t data) :=
  fun _ => ⟨_, rfl, lowBits_opByte _ _⟩
theorem busIn (a : BitVec 7) (e : BitVec 4) (ack : Bool) : Statement (.busIn a e ack) :=
  fun _ => ⟨_, rfl, lowBits_opByte _ _⟩
theorem busReset : Statement .busReset := fun _ => ⟨_, rfl, lowBits_opByte _ _⟩
theorem busSuspend : Statement .busSuspend := fun _ => ⟨_, rfl, lowBits_opByte _ _⟩
theorem busWakeup : Statement .busWakeup := fun _ => ⟨_, rfl, lowBits_opByte _ _⟩
theorem reqGetStatus (v i l : Half) : Statement (.reqGetStatus v i l) := fun _ => ⟨_, rfl, lowBits_setupBytes (by decide)⟩
theorem reqSetAddress (v i l : Half) : Statement (.reqSetAddress v i l) := fun _ => ⟨_, rfl, lowBits_setupBytes (by decide)⟩
theorem reqGetDescriptor (v i l : Half) : Statement (.reqGetDescriptor v i l) := fun _ => ⟨_, rfl, lowBits_setupBytes (by decide)⟩
theorem reqSetConfiguration (v i l : Half) : Statement (.reqSetConfiguration v i l) := fun _ => ⟨_, rfl, lowBits_setupBytes (by decide)⟩
theorem reqSetLineCoding (v i l : Half) : Statement (.reqSetLineCoding v i l) := fun _ => ⟨_, rfl, lowBits_setupBytes (by decide)⟩
theorem reqGetLineCoding (v i l : Half) : Statement (.reqGetLineCoding v i l) := fun _ => ⟨_, rfl, lowBits_setupBytes (by decide)⟩
theorem reqSetControlLineState (v i l : Half) : Statement (.reqSetControlLineState v i l) := fun _ => ⟨_, rfl, lowBits_setupBytes (by decide)⟩
theorem reqUnsupported (rt rq : Byte) (v i l : Half) : Statement (.reqUnsupported rt rq v i l) :=
  fun _ => ⟨_, rfl, BitVec.and_zero⟩
theorem ctrlSetup : Statement .ctrlSetup := fun _ => rfl
theorem ctrlInDone : Statement .ctrlInDone := fun _ => rfl
theorem ctrlOutDone : Statement .ctrlOutDone := fun _ => rfl
theorem bulkOutDone : Statement .bulkOutDone := fun _ => rfl
theorem bulkInDone : Statement .bulkInDone := fun _ => rfl
theorem bulkKick : Statement .bulkKick := fun _ => rfl

end Sys2Proof.Laws.OpByte
end

