-- ==== Sys2Proof/Tests/Slice0.lean ====
section
/-! SUPPORT. Tests of the model. Expected results come from the vectors of spec/95_test_vectors.md (T, V, P) or are
worked by hand from the rule a test names; each runs one step. The last part shows, for every statement with
hypotheses, a concrete input that meets them. -/

namespace Sys2Proof.Tests

open Sys2Proof Sys2Proof.Machine

/-! ## Named states of spec/95_test_vectors.md section 0 -/

/-- The fixture descriptor DD. -/
def dd : List Byte :=
  [0x12, 0x01, 0x00, 0x02, 0x02, 0x02, 0x00, 0x40, 0x34, 0x12, 0x78, 0x56, 0x00, 0x01, 0x01, 0x02, 0x03, 0x01]

/-- A fixture of 64 bytes for `Desc(2, 0)` (vector V26). -/
def cc : List Byte := (List.range 64).map (BitVec.ofNat 8)

/-- The default parameters with the fixture descriptors. -/
def fixture : Params := { Params.default with desc := [⟨1, 0, dd⟩, ⟨2, 0, cc⟩] }

/-- S0, after `INIT`. -/
def s0 : State := { State.reset with params := fixture }

/-- Before `INIT`. -/
def before : State := { s0 with lifecycle := .off }

/-- Before `INIT`, with vector V3's odd offset in the layout. -/
def beforeBad : State := { before with params := { fixture with layout0 := ⟨0x0041, 0x0080, 64⟩ } }

/-- Inside `INIT`, no entry configured. -/
def inside : State := { s0 with lifecycle := .initialising, bdtConfigured0 := false, bdtConfigured1 := false }

/-- S1, after a bus reset and its handler: Default. -/
def s1 : State :=
  { s0 with
    devState := .default
    ep0 := ⟨.control, false, false, false, .disabled, .disabled, some .nak, some .nak, true⟩ }

/-- S2: Addressed, address 5. -/
def s2 : State :=
  { s1 with devState := .addressed, devAddr := 5, ep0 := ⟨.control, false, true, false, .nak, .nak, none, none, true⟩ }

/-- S3: Configured. -/
def s3 : State :=
  { s2 with devState := .configured, ep1 := ⟨.bulk, false, false, false, .nak, .valid, none, none, true⟩ }

/-- S3 with rings of 8 bytes. -/
def s3small : State := { s3 with params := { fixture with rxCap := 8, txCap := 8 } }

/-- The bytes `bs` in packet memory from `a` on. -/
def withPma (a : Nat) (bs : List Byte) (s : State) : State := { s with pma := Memory.writeBytes s.pma a bs }

/-- A SETUP packet received on endpoint 0 (the state after the link's step). -/
def withSetup (p : List Byte) (s : State) : State :=
  { withPma 0x0080 p s with
    bdt0 := { s.bdt0 with rxCount := 8 }
    istat := { s.istat with ctEp0Rx := true, setup := true } }

/-- A transfer in progress. -/
def withTransfer (t : ControlTransfer) (s : State) : State := { s with ct := some t }

/-- The data stage of T6 line 2: DD armed. -/
def sendingDd : ControlTransfer :=
  ⟨0x80, 0x06, 0x0100, 0, 18, .deviceToHost, .dataStage, .dataIn, dd, 0, 18⟩

/-- A 64-byte reply of which all 64 bytes are armed, `length` 255 (V26). -/
def sendingCc : ControlTransfer :=
  ⟨0x80, 0x06, 0x0200, 0, 255, .deviceToHost, .dataStage, .dataIn, cc, 0, 64⟩

/-- SET_ADDRESS 5 waiting for its status packet (T2 line 2). -/
def settingAddress : ControlTransfer :=
  ⟨0x00, 0x05, 0x0005, 0, 0, .hostToDevice, .statusStage, .noData, [], 0, 0⟩

/-- SET_LINE_CODING waiting for its payload (T7 line 2). -/
def settingCoding : ControlTransfer :=
  ⟨0x21, 0x20, 0, 0, 7, .hostToDevice, .dataStage, .dataOut, [], 0, 0⟩

/-- What an outcome's next state satisfies; false for a fault or a refusal. -/
def nextHas (o : Result) (p : State → Bool) : Bool :=
  match o with
  | .next t => p t
  | .fault _ => false
  | .refused _ => false

/-- The refusal of an outcome. -/
def refusalOf (o : Result) : Option Refusal :=
  match o with
  | .refused r => some r
  | .next _ => none
  | .fault _ => none

/-! ## Ill-formed terms are refused -/

theorem test_wf_dispatch_single_event : (Instr.dispatch 0x0100).wellFormed = false := by decide
theorem test_wf_dispatch_setup_alone : (Instr.dispatch 0x0010).wellFormed = false := by decide
theorem test_wf_dispatch_reserved_bit : (Instr.dispatch 0x0041).wellFormed = false := by decide
theorem test_wf_dispatch_no_flag : (Instr.dispatch 0).wellFormed = false := by decide
theorem test_wf_dispatch_two_events : (Instr.dispatch 0x0003).wellFormed = true := by decide
theorem test_wf_unsupported_listed : (Instr.reqUnsupported 0x80 0x06 0 0 0).wellFormed = false := by decide
theorem test_wf_unsupported : (Instr.reqUnsupported 0x81 0x00 0 0 0).wellFormed = true := by decide

/-! ## Decoding: words written out from spec/30_encoding.md (operand bytes: log 9) -/

theorem test_decode_power_on : decodeExact .P [0x00] = .ok .init := by decide

theorem test_decode_table_commands :
    decodeExact .C [0x10, 0x01, 0xC0, 0x00, 0x00, 0x01, 0x40, 0x00] = .ok (.bdtConfigure .ep1 0x00C0 0x0100 64)
    ∧ decodeExact .C [0x11, 0x00, 0x12, 0x00] = .ok (.bdtSetTxCount .ep0 18)
    ∧ decodeExact .C [0x12, 0x01] = .ok (.bdtReadRxCount .ep1) := by decide

theorem test_decode_endpoint_commands :
    decodeExact .C [0x20, 0x01, 0x01, 0x02, 0x03] = .ok (.epConfigure .ep1 .bulk .nak .valid)
    ∧ decodeExact .C [0x21, 0x00, 0x01, 0x01] = .ok (.epSetStatus .ep0 .rx .stall)
    ∧ decodeExact .C [0x22, 0x01, 0x00] = .ok (.epToggle .ep1 .tx) := by decide

theorem test_decode_bridge :
    decodeExact .A [0x30, 0x03, 0x41, 0x42, 0x43] = .ok (.brWrite [0x41, 0x42, 0x43])
    ∧ decodeExact .A [0x31, 0x08] = .ok (.brRead 8)
    ∧ decodeExact .A [0x32] = .ok .brAvail ∧ decodeExact .A [0x33] = .ok .brSpace
    ∧ decodeExact .A [0x34] = .ok .brOverrun ∧ decodeExact .A [0x35] = .ok .brKick := by decide

/-- No length is too long: the number goes on after a byte 255 (log 9). -/
theorem test_decode_numbers :
    decodeExact .A [0x31, 0xFF, 0x01] = .ok (.brRead 256) ∧ decodeExact .A [0x31, 0xFF, 0xFF, 0x00] = .ok (.brRead 510)
    ∧ numberBytes 1024 = [0xFF, 0xFF, 0xFF, 0xFF, 0x04] ∧ decodeExact .A [0x31, 0xFF] = .error .truncated := by decide

theorem test_decode_events :
    decodeExact .E [0x00, 0x01] = .ok .evReset ∧ decodeExact .E [0x00, 0x02] = .ok .evSuspend
    ∧ decodeExact .E [0x00, 0x04] = .ok .evWakeup ∧ decodeExact .E [0x02, 0x00] = .ok .evEp0In
    ∧ decodeExact .E [0x11, 0x00] = .ok .evEp0Setup ∧ decodeExact .E [0x01, 0x00] = .ok .evEp0Out
    ∧ decodeExact .E [0x04, 0x00] = .ok .evEp1Out ∧ decodeExact .E [0x08, 0x00] = .ok .evEp1In
    ∧ decodeExact .E [0x20, 0x00] = .ok .evKick ∧ decodeExact .E [0x13, 0x00] = .ok (.dispatch 0x0013) := by decide

/-- Encodings of spec/95_test_vectors.md P1 lines 2, 4, 6, 8. -/
theorem test_decode_bus :
    decodeExact .B [0x60] = .ok .busReset
    ∧ decodeExact .B [0x5D, 0x00, 0x00, 0x08, 0x80, 0x06, 0x00, 0x01, 0x00, 0x00, 0x40, 0x00]
      = .ok (.busSetup 0 0 [0x80, 0x06, 0x00, 0x01, 0x00, 0x00, 0x40, 0x00])
    ∧ decodeExact .B [0x59, 0x00, 0x00, 0x01] = .ok (.busIn 0 0 true)
    ∧ decodeExact .B [0x51, 0x00, 0x00, 0x01, 0x00] = .ok (.busOut 0 0 true [])
    ∧ decodeExact .B [0x61] = .ok .busSuspend ∧ decodeExact .B [0x62] = .ok .busWakeup := by decide

theorem test_decode_requests :
    decodeExact .S [0x80, 0x00, 0x00, 0x00, 0x00, 0x00, 0x02, 0x00] = .ok (.reqGetStatus 0 0 2)
    ∧ decodeExact .S [0x00, 0x05, 0x05, 0x00, 0x00, 0x00, 0x00, 0x00] = .ok (.reqSetAddress 5 0 0)
    ∧ decodeExact .S [0x80, 0x06, 0x00, 0x01, 0x00, 0x00, 0x12, 0x00] = .ok (.reqGetDescriptor 0x0100 0 18)
    ∧ decodeExact .S [0x00, 0x09, 0x01, 0x00, 0x00, 0x00, 0x00, 0x00] = .ok (.reqSetConfiguration 1 0 0)
    ∧ decodeExact .S [0x21, 0x20, 0x00, 0x00, 0x00, 0x00, 0x07, 0x00] = .ok (.reqSetLineCoding 0 0 7)
    ∧ decodeExact .S [0xA1, 0x21, 0x00, 0x00, 0x00, 0x00, 0x07, 0x00] = .ok (.reqGetLineCoding 0 0 7)
    ∧ decodeExact .S [0x21, 0x22, 0x03, 0x00, 0x00, 0x00, 0x00, 0x00] = .ok (.reqSetControlLineState 3 0 0)
    ∧ decodeExact .S [0x81, 0x00, 0x00, 0x00, 0x34, 0x12, 0x02, 0x00] = .ok (.reqUnsupported 0x81 0x00 0 0x1234 2)
    := by decide

theorem test_decode_refuses :
    decodeExact .C [0x13, 0x00] = .error .unknownOperation ∧ decodeExact .C [0x12, 0x02] = .error .badOperand
    ∧ decodeExact .B [0x59, 0x80, 0x00, 0x01] = .error .badOperand ∧ decodeExact .A [0x32, 0x00] = .error .trailingBytes
    ∧ decodeExact .E [0x10, 0x00] = .error .reservedEventWord := by decide

theorem test_table_words :
    decodeTableWord 16 0x0500 = some (.reqSetAddress 0 0 0) ∧ decodeTableWord 16 0x0200 = some .evSuspend
    ∧ decodeTableWord 8 0x5D = some (.busSetup 0 0 []) := by decide

theorem test_fetch_word_runs :
    step (State.reset.withFetchWord 8 0x35) = exec .brKick State.reset := by rfl

/-! ## Power-on and the commands -/

/-- S0. -/
theorem test_init : exec .init before = .next s0 := by rfl

/-- V3: an odd offset. -/
theorem test_init_layout_error :
    nextHas (exec .init beforeBad) fun t =>
      t.fatal && !t.bdtConfigured0 && !t.bdtConfigured1 && t.cmdResult == .layoutError := by decide

/-- V7. -/
theorem test_bdt_configure :
    nextHas (exec (.bdtConfigure .ep0 0x0040 0x03C0 64) inside) fun t =>
      t.bdt0 == ⟨0x0040, 0, 0x03C0, 64, 0⟩ && t.bdtConfigured0 && !t.fatal && t.cmdResult == .ok := by decide

/-- V8 and V9 (overlaps). -/
theorem test_bdt_configure_overlap :
    (nextHas (exec (.bdtConfigure .ep0 0x0040 0x0060 64) inside) fun t =>
      t.fatal && !t.bdtConfigured0 && t.cmdResult == .layoutError)
    ∧ nextHas (exec (.bdtConfigure .ep1 0x0080 0x0100 64) { inside with bdtConfigured0 := true }) fun t => t.fatal
    := by decide

/-- V11, V13. -/
theorem test_bdt_set_tx_count :
    (nextHas (exec (.bdtSetTxCount .ep0 18) s0) fun t => t.bdt0 == ⟨0x0040, 18, 0x0080, 64, 0⟩)
    ∧ refusalOf (exec (.bdtSetTxCount .ep0 65) s0) = some .txCountTooLarge := by decide

/-- V14. -/
theorem test_bdt_read_rx_count :
    nextHas (exec (.bdtReadRxCount .ep1) { s3 with bdt1 := { s3.bdt1 with rxCount := 3 } }) fun t =>
      t.cmdResult == .count 3 && t.bdt1.rxCount == 3 := by decide

/-- V16: packed `EPR[1]` = 0x0140. -/
theorem test_ep_configure :
    nextHas (exec (.epConfigure .ep1 .bulk .nak .valid)
        { s1 with ep1 := { s1.ep1 with txToggle := true, rxToggle := true } }) fun t =>
      t.view (.epr .ep1) == 0x0140 && t.ep1.txStatReq == some .nak && t.ep1.rxStatReq == some .valid
        && t.ep1.txStat == .disabled && t.ep1.rxStat == .disabled := by decide

theorem test_ep_set_status :
    (nextHas (exec (.epSetStatus .ep1 .rx .stall) s3) fun t =>
      t.ep1.rxStat == .valid && t.ep1.rxStatReq == some .stall && t.ep1.txStatReq == none)
    ∧ refusalOf (exec (.epSetStatus .ep1 .rx .stall) s2) = some .endpointNotConfigured := by decide

theorem test_ep_toggle :
    nextHas (exec (.epToggle .ep1 .tx) s3) fun t =>
      t.ep1.txToggle && !t.ep1.rxToggle && t.ep1.txStat == .nak := by decide

/-- End states of P1: packed views. -/
theorem test_views : s3.view (.epr .ep1) = 0x014B ∧ s3.view (.epr .ep0) = 0x011A ∧ s3.view .daddr = 5 := by decide

/-! ## The bridge -/

/-- V53, micro-step W1: `TX_CAP` 8, `head` 6, `tail` 1, so 3 bytes are taken. -/
theorem test_br_write_snapshot :
    nextHas (exec (.brWrite [0x61, 0x62, 0x63, 0x64, 0x65])
        { s3small with txrb := ⟨[], 6, 1⟩ }) fun t =>
      t.appOp == some ⟨.write, 6, 1, 3, 0, [0x61, 0x62, 0x63, 0x64, 0x65]⟩ && t.txrb.head == 6 := by decide

/-- V56: `head` = `tail` = 65534, three bytes go to `buf[6]`, `buf[7]`, `buf[0]`, `head` 1. -/
theorem test_br_write_wraps :
    nextHas (wholeWrite [1, 2, 3] { s3small with txrb := ⟨[], 65534, 65534⟩ }) fun t =>
      t.txrb == ⟨[(0, 3), (6, 1), (7, 2)], 1, 65534⟩ && t.appResult == .accepted 3 && t.appOp == none := by decide

/-- V57. -/
theorem test_br_read :
    nextHas (wholeRead 2 { s3small with rxrb := ⟨[(0, 0x41), (1, 0x42), (2, 0x43)], 3, 0⟩ }) fun t =>
      t.appResult == .filled 2 [0x41, 0x42] && t.rxrb.tail == 2 && t.rxrb.head == 3 := by decide

/-- V59, micro-step R1: the snapshot of `head` fixes k. -/
theorem test_br_read_snapshot :
    nextHas (exec (.brRead 8) { s3small with rxrb := ⟨[(0, 0x41), (1, 0x42)], 2, 0⟩ }) fun t =>
      t.appOp == some ⟨.read, 2, 0, 2, 0, []⟩ := by decide

/-- V61, and V40's wrapped count. -/
theorem test_br_queries :
    (nextHas (exec .brSpace { s0 with txrb := ⟨[], 10, 0⟩ }) fun t => t.appResult == .number 246)
    ∧ (nextHas (exec .brAvail { s0 with rxrb := ⟨[], 1, 65534⟩ }) fun t => t.appResult == .number 3)
    ∧ nextHas (exec .brOverrun { s0 with overrunCount := 4 }) fun t =>
      t.appResult == .number 4 && t.overrunCount == 4 := by decide

theorem test_br_kick : nextHas (exec .brKick s0) fun t => t.view .istat == 0x0020 := by decide

theorem test_br_busy :
    refusalOf (exec .brKick { s0 with appOp := some ⟨.read, 0, 0, 0, 0, []⟩ }) = some .bridgeBusy := by decide

/-! ## The dispatcher -/

/-- V43: the entry step, then EV.EP0_IN first; the snapshot is ISTAT whatever word selected the operation (R221). -/
theorem test_dispatch_enters :
    (nextHas (exec (.dispatch 0x0013) { s3 with istat := Istat.ofWord 0x0013 }) fun t =>
      t.dispSnap == some (Istat.ofWord 0x0013) && t.istat == Istat.ofWord 0x0013)
    ∧ nextHas (exec (.dispatch 0x000C) { s3 with istat := Istat.ofWord 0x0013 }) fun t =>
      t.dispSnap == some (Istat.ofWord 0x0013) := by decide

theorem test_dispatch_handles_in_order :
    nextHas (exec (.dispatch 0x0013)
        { withTransfer { settingAddress with request := 0x09 } s3 with
          istat := Istat.ofWord 0x0013, dispSnap := some (Istat.ofWord 0x0013) }) fun t =>
      t.dispSnap == some (Istat.ofWord 0x0011) && t.istat.pack == 0x0011 && t.ct == none && t.ep0.txToggle
    := by decide

/-- V44: the flag of the snapshot is gone from ISTAT, so the handler is skipped and the invocation ends. -/
theorem test_dispatch_skips :
    nextHas (exec (.dispatch 0x0001)
        { s3 with istat := Istat.ofWord 0x0100, dispSnap := some (Istat.ofWord 0x0001) }) fun t =>
      t.dispSnap == none && t.istat.pack == 0x0100 && t.ep0.rxToggle == s3.ep0.rxToggle := by decide

/-- V51. -/
theorem test_ev_reset :
    nextHas (exec .evReset { s3 with
        istat := Istat.ofWord 0x0100, rxrb := ⟨[], 10, 0⟩, txrb := ⟨[], 3, 0⟩, overrunCount := 7 }) fun t =>
      t.devState == .default && t.devAddr == 0 && !t.ep1.configured && t.ep0 == { s1.ep0 with
        txStat := .nak, rxStat := .nak } && t.rxrb.head == 10 && t.txrb.head == 3 && t.overrunCount == 7
        && t.istat.pack == 0 := by decide

/-- V46, V47. -/
theorem test_ev_suspend :
    (nextHas (exec .evSuspend { s1 with istat := Istat.ofWord 0x0200 }) fun t => t.devState == .default)
    ∧ nextHas (exec .evSuspend { s3 with istat := Istat.ofWord 0x0600 }) fun t =>
      t.devState == .suspended && t.istat.pack == 0x0400 := by decide

theorem test_ev_wakeup :
    nextHas (exec .evWakeup { s3 with devState := .suspended, istat := Istat.ofWord 0x0400 }) fun t =>
      t.devState == .configured && t.istat.pack == 0 := by decide

/-- T6 line 4. -/
theorem test_ev_ep0_in :
    nextHas (exec .evEp0In { withTransfer sendingDd s1 with istat := Istat.ofWord 0x0002 }) fun t =>
      t.ct == some { sendingDd with pos := 18, phase := .statusStage } && t.istat.pack == 0 && t.ep0.txToggle
    := by decide

/-- T2 line 2. -/
theorem test_ev_ep0_setup :
    nextHas (exec .evEp0Setup (withSetup [0x00, 0x05, 0x05, 0x00, 0x00, 0x00, 0x00, 0x00] s1)) fun t =>
      t.pendingAddr == some 5 && t.ct == some settingAddress && t.bdt0.txCount == 0 && t.devAddr == 0
        && t.ep0 == ⟨.control, true, true, false, .disabled, .disabled, some .valid, some .nak, true⟩
        && t.istat.pack == 0 := by decide

/-- T6 line 6. -/
theorem test_ev_ep0_out :
    nextHas (exec .evEp0Out { withTransfer { sendingDd with phase := .statusStage } s2 with
        istat := Istat.ofWord 0x0001 }) fun t =>
      t.ct == none && !t.ep0.rxToggle && t.ep0.txStatReq == some .nak && t.istat.pack == 0 := by decide

/-- T3 line 1. -/
theorem test_ev_ep1_out :
    nextHas (exec .evEp1Out { withPma 0x0100 [0x41, 0x42, 0x43] s3small with
        bdt1 := { s3.bdt1 with rxCount := 3 }, istat := Istat.ofWord 0x000C }) fun t =>
      t.rxrb == ⟨[(0, 0x41), (1, 0x42), (2, 0x43)], 3, 0⟩ && t.ep1.rxToggle && t.istat.pack == 0x0008 := by decide

/-- V31, last handler: the ring is empty, so endpoint 1 goes idle. -/
theorem test_ev_ep1_in :
    nextHas (exec .evEp1In { s3 with ep1TxBusy := true, ep1TxLastLen := 2, istat := Istat.ofWord 0x0008 }) fun t =>
      !t.ep1TxBusy && t.ep1.txToggle && t.ep1.txStatReq == none && t.istat.pack == 0 := by decide

/-- V34. -/
theorem test_ev_kick :
    nextHas (exec .evKick { s3 with istat := Istat.ofWord 0x0020 }) fun t =>
      !t.ep1TxBusy && t.ep1.txStatReq == none && t.istat.pack == 0 := by decide

/-- V52. -/
theorem test_fatal_no_handler :
    nextHas (exec .evKick { s3 with fatal := true, istat := Istat.ofWord 0x0020 }) fun t => t.istat.pack == 0x0020
    := by decide

/-! ## Requests (spec/95_test_vectors.md 2.3) -/

/-- V21, V22. -/
theorem test_req_get_status :
    (nextHas (exec (.reqGetStatus 0 0 2) s1) fun t =>
      t.pma == [(0x40, 0), (0x41, 0)] && t.bdt0.txCount == 2 && t.ep0.txStatReq == some .valid
        && t.ep0.rxStatReq == some .valid)
    ∧ nextHas (exec (.reqGetStatus 0 0 1) s1) fun t =>
      t.bdt0.txCount == 1 && (t.ct.map (·.data)) == some [0] && t.draws == 1 := by decide

/-- V30b, V30a. -/
theorem test_req_set_address :
    (nextHas (exec (.reqSetAddress 0 0 0) s2) fun t => t.ep0.stalled && t.pendingAddr == none)
    ∧ nextHas (exec (.reqSetAddress 0 0 0) s1) fun t => !t.ep0.stalled && t.pendingAddr == some 0 := by decide

/-- T6 line 2, V28. -/
theorem test_req_get_descriptor :
    (nextHas (exec (.reqGetDescriptor 0x0100 0 18) s1) fun t =>
      t.ct == some sendingDd && t.bdt0.txCount == 18 && t.pmaBytes 0x0040 18 == dd)
    ∧ nextHas (exec (.reqGetDescriptor 0x0300 0 255) s1) fun t =>
      t.ep0.stalled && t.ep0.txStatReq == some .stall && t.ep0.rxStatReq == some .stall := by decide

/-- V30i, V30f. -/
theorem test_req_set_configuration :
    (nextHas (exec (.reqSetConfiguration 1 0 0)
        { s3 with ep1 := { s3.ep1 with rxToggle := true }, ep1TxBusy := true }) fun t =>
      !t.ep1.rxToggle && !t.ep1TxBusy && t.ep1.txStatReq == some .nak && t.ep1.rxStatReq == some .valid
        && t.devState == .configured)
    ∧ nextHas (exec (.reqSetConfiguration 1 0 0) s1) fun t => t.ep0.stalled && t.devState == .default := by decide

/-- T7 line 2, V30j. -/
theorem test_req_set_line_coding :
    (nextHas (exec (.reqSetLineCoding 0 0 7) s3) fun t =>
      t.ct == some settingCoding && t.ep0.rxStatReq == some .valid && t.lineCoding == s3.lineCoding)
    ∧ nextHas (exec (.reqSetLineCoding 0 0 8) s3) fun t => t.ep0.stalled && t.ct == none := by decide

/-- T8 line 3: 115200 = 0x0001C200. -/
theorem test_req_get_line_coding :
    nextHas (exec (.reqGetLineCoding 0 0 7) s3) fun t =>
      t.pmaBytes 0x0040 7 == [0x00, 0xC2, 0x01, 0x00, 0x00, 0x00, 0x08] && t.bdt0.txCount == 7 := by decide

/-- V30m, V30n. -/
theorem test_req_set_control_line_state :
    (nextHas (exec (.reqSetControlLineState 3 0 0) s3) fun t =>
      (t.ct.map (·.phase)) == some .statusStage && t.lineCoding == s3.lineCoding)
    ∧ nextHas (exec (.reqSetControlLineState 3 0 1) s3) fun t => t.ep0.stalled := by decide

/-- V30o. -/
theorem test_req_unsupported :
    nextHas (exec (.reqUnsupported 0x81 0x00 0 0 2) s3) fun t =>
      t.ep0.stalled && t.ct == none && t.ep0.txStat == .nak := by decide

/-! ## Bodies -/

/-- T8 (a) line 3: the old transfer is dropped, the new one proceeds. -/
theorem test_ctrl_setup_supersedes :
    nextHas (exec .ctrlSetup (withSetup [0xA1, 0x21, 0, 0, 0, 0, 7, 0]
        (withTransfer settingCoding { s3 with ep0 := { s3.ep0 with stalled := true } }))) fun t =>
      (t.ct.map (·.data)) == some [0x00, 0xC2, 0x01, 0x00, 0x00, 0x00, 0x08] && !t.ep0.stalled
        && t.ep0.txToggle && t.ep0.rxToggle && t.istat.pack == 0x0011 := by decide

/-- T2 line 6. -/
theorem test_ctrl_in_done_applies_address :
    nextHas (exec .ctrlInDone (withTransfer settingAddress { s1 with pendingAddr := some 5 })) fun t =>
      t.devAddr == 5 && t.devState == .addressed && t.pendingAddr == none && t.ct == none := by decide

/-- V26: a full last packet of a short reply is followed by a zero-length packet. -/
theorem test_ctrl_in_done_zlp :
    nextHas (exec .ctrlInDone (withTransfer sendingCc s3)) fun t =>
      t.ct == some { sendingCc with pos := 64, lastLen := 0 } && t.bdt0.txCount == 0
        && t.ep0.txStatReq == some .valid := by decide

/-- T7 line 4, V30k. -/
theorem test_ctrl_out_done_line_coding :
    (nextHas (exec .ctrlOutDone (withPma 0x0080 [0x80, 0x25, 0, 0, 0, 0, 8]
        (withTransfer settingCoding { s3 with bdt0 := { s3.bdt0 with rxCount := 7 } }))) fun t =>
      t.lineCoding == ⟨9600, 0, 0, 8⟩ && (t.ct.map (·.phase)) == some .statusStage
        && t.ep0.txStatReq == some .valid && !t.ep0.rxToggle)
    ∧ nextHas (exec .ctrlOutDone (withTransfer settingCoding { s3 with bdt0 := { s3.bdt0 with rxCount := 4 } })) fun t =>
      t.ep0.stalled && t.lineCoding == s3.lineCoding := by decide

/-- T4 line 2: space 3, k 3, `head` 8, two bytes dropped; V41: saturation. -/
theorem test_bulk_out_done_overrun :
    (nextHas (exec .bulkOutDone (withPma 0x0100 [6, 7, 8, 9, 10]
        { s3small with rxrb := ⟨[], 5, 0⟩, bdt1 := { s3.bdt1 with rxCount := 5 } })) fun t =>
      t.rxrb == ⟨[(5, 6), (6, 7), (7, 8)], 8, 0⟩ && t.overrunCount == 2 && t.ep1.rxStatReq == some .valid)
    ∧ nextHas (exec .bulkOutDone (withPma 0x0100 [6, 7, 8, 9, 10]
        { s3small with
          rxrb := ⟨[], 8, 0⟩, bdt1 := { s3.bdt1 with rxCount := 5 }, overrunCount := 0xFFFFFFFE })) fun t =>
      t.overrunCount == 0xFFFFFFFF && t.rxrb.head == 8 := by decide

/-- V33, V32: `TX_ZLP`. -/
theorem test_bulk_in_done_zlp :
    (nextHas (exec .bulkInDone
        { s3 with params := { fixture with txZlp := true }, ep1TxBusy := true, ep1TxLastLen := 64 }) fun t =>
      t.ep1TxBusy && t.ep1TxLastLen == 0 && t.bdt1.txCount == 0 && t.ep1.txStatReq == some .valid)
    ∧ nextHas (exec .bulkInDone { s3 with ep1TxBusy := true, ep1TxLastLen := 64 }) fun t =>
      !t.ep1TxBusy && t.ep1.txToggle && t.ep1.txStatReq == none := by decide

/-- V36: `68 69` armed as DATA0; V35: nothing while busy. -/
theorem test_bulk_kick :
    (nextHas (exec .bulkKick { s3 with txrb := ⟨[(0, 0x68), (1, 0x69)], 2, 0⟩ }) fun t =>
      t.pma == [(0xC0, 0x68), (0xC1, 0x69)] && t.txrb.tail == 2 && t.bdt1.txCount == 2 && t.ep1TxBusy
        && t.ep1TxLastLen == 2 && !t.ep1.txToggle && t.ep1.txStatReq == some .valid)
    ∧ nextHas (exec .bulkKick { s3 with txrb := ⟨[(0, 0x68), (1, 0x69)], 2, 0⟩, ep1TxBusy := true }) fun t =>
      t.txrb.tail == 0 && t.pma == [] := by decide

/-! ## The link -/

/-- T6 line 1 (V66). -/
theorem test_bus_setup :
    nextHas (exec (.busSetup 0 0 [0x80, 0x06, 0x00, 0x01, 0x00, 0x00, 0x12, 0x00]) s1) fun t =>
      t.busResp == .handshake .ack && t.bdt0.rxCount == 8 && t.view .istat == 0x0011
        && t.pmaBytes 0x0080 8 == [0x80, 0x06, 0x00, 0x01, 0x00, 0x00, 0x12, 0x00]
        && t.ep0.txStat == .nak && t.ep0.rxStat == .nak && t.ep0.txStatReq == none := by decide

/-- V65 (Disabled), V67 (address), V69 (7 bytes), V70 (endpoint 1). -/
theorem test_bus_setup_ignored :
    (nextHas (exec (.busSetup 0 0 [0x80, 6, 0, 1, 0, 0, 0x12, 0]) s0) fun t => t.busResp == .silent && t.istat.pack == 0)
    ∧ (nextHas (exec (.busSetup 4 0 [0x80, 6, 0, 1, 0, 0, 0x12, 0]) s3) fun t => t.busResp == .silent && t.istat.pack == 0)
    ∧ (nextHas (exec (.busSetup 5 0 [0x80, 6, 0, 1, 0, 0, 0x12]) s3) fun t => t.busResp == .silent && t.istat.pack == 0)
    ∧ nextHas (exec (.busSetup 5 1 [0x80, 6, 0, 1, 0, 0, 0x12, 0]) s3) fun t => t.busResp == .silent && t.istat.pack == 0
    := by decide

/-- T5: a repeated toggle is acknowledged and discarded; T3: the packet is stored. -/
theorem test_bus_out :
    (nextHas (exec (.busOut 5 1 true [0x41]) s3) fun t =>
      t.busResp == .handshake .ack && t.istat.pack == 0 && t.pma == [] && t.ep1.rxStat == .valid)
    ∧ nextHas (exec (.busOut 5 1 false [0x41, 0x42]) s3) fun t =>
      t.busResp == .handshake .ack && t.istat.pack == 0x0004 && t.pma == [(0x100, 0x41), (0x101, 0x42)]
        && t.bdt1.rxCount == 2 && t.ep1.rxStat == .nak && !t.ep1.rxToggle := by decide

/-- V71, V73. -/
theorem test_bus_out_not_taken :
    (nextHas (exec (.busOut 5 1 false (List.replicate 65 0)) s3) fun t =>
      t.busResp == .silent && t.istat.pack == 0 && t.ep1.rxStat == .valid)
    ∧ nextHas (exec (.busOut 5 0 true []) s3) fun t => t.busResp == .handshake .nak && t.istat.pack == 0 := by decide

/-- T2 line 4 and V78. -/
theorem test_bus_in :
    (nextHas (exec (.busIn 0 0 true) { withTransfer settingAddress s1 with
        ep0 := ⟨.control, true, true, false, .valid, .nak, none, none, true⟩ }) fun t =>
      t.busResp == .packet true [] true && t.ep0.txStat == .nak && t.view .istat == 0x0002 && t.devAddr == 0)
    ∧ nextHas (exec (.busIn 0 0 false) { withPma 0x0040 dd s1 with
        bdt0 := { s1.bdt0 with txCount := 18 }
        ep0 := ⟨.control, true, true, false, .nak, .nak, some .valid, none, true⟩ }) fun t =>
      t.busResp == .packet true dd false && t.ep0.txStat == .valid && t.istat.pack == 0 := by decide

/-- V75. -/
theorem test_bus_reset :
    nextHas (exec .busReset { s3 with istat := Istat.ofWord 0x003F }) fun t =>
      t.view .istat == 0x0120 && t.devAddr == 0 && t.devState == .configured && !t.ep0.configured
        && t.ep1.rxStat == .disabled := by decide

/-- R50, columns "link" and "handler": the link keeps `ep1TxBusy` and the handler clears it, so R51 (f) fails in between
(log 18). -/
theorem test_bus_reset_keeps_busy :
    (nextHas (exec .busReset { s3 with ep1TxBusy := true }) fun t =>
      t.ep1TxBusy && !t.ep1.configured && t.istat.reset)
    ∧ nextHas (andThen (exec .busReset { s3 with ep1TxBusy := true }) (exec .evReset)) fun t =>
      !t.ep1TxBusy && !t.istat.reset := by decide

/-- V77, V17. -/
theorem test_bus_suspend :
    nextHas (exec .busSuspend { s3 with ep1 := { s3.ep1 with txStatReq := some .valid } }) fun t =>
      t.view .istat == 0x0200 && t.ep1.txStat == .valid && t.ep1.txStatReq == none && t.devState == .configured
    := by decide

theorem test_bus_wakeup : nextHas (exec .busWakeup s3) fun t => t.view .istat == 0x0400 := by decide

/-! ## The step -/

/-- With an empty queue the dispatcher steps first, then the application, and a fatal block stops. -/
theorem test_step_order :
    (nextHas (step { s3 with istat := Istat.ofWord 0x0004, appOp := some ⟨.read, 0, 0, 0, 0, []⟩ }) fun t =>
      t.dispSnap == some (Istat.ofWord 0x0004) && t.appOp.isSome)
    ∧ (nextHas (step { s3 with appOp := some ⟨.read, 0, 0, 0, 0, []⟩ }) fun t => t.appOp == none)
    ∧ refusalOf (step { before with inputs := [.request .A [0x35]] }) = some .beforeInit := by decide

/-! ## Witnesses: for every statement with hypotheses, inputs that meet them (one for each clause) -/

theorem fixture_entry0 : entryOk fixture s0.bdt0 := by unfold entryOk; decide
theorem fixture_entry1 : entryOk fixture s0.bdt1 := by unfold entryOk; decide

theorem fixture_apart : regionsApart s0.bdt0 s0.bdt1 := by
  have h0 : s0.bdt0.txOffset.toNat = 0x40 ∧ s0.bdt0.rxOffset.toNat = 0x80 ∧ s0.bdt0.rxMaxCount.toNat = 64 := by decide
  have h1 : s0.bdt1.txOffset.toNat = 0xC0 ∧ s0.bdt1.rxOffset.toNat = 0x100 ∧ s0.bdt1.rxMaxCount.toNat = 64 := by
    decide
  intro a
  unfold inTxRegion inRxRegion
  omega

/-- S3 with any queue of choices meets the invariant. -/
theorem s3_invariant (l : List Input) : State.Invariant { s3 with inputs := l } where
  paramsOk := (by decide : fixture.wf = true)
  running := rfl
  notFatal := rfl
  table := ⟨rfl, rfl, fixture_entry0, fixture_entry1, fixture_apart⟩
  rxBound := (by decide : s3.rxrb.count ≤ s3.params.rxCap)
  txBound := (by decide : s3.txrb.count ≤ s3.params.txCap)
  idlePending := fun _ => rfl
  poweredSilent := fun h => nomatch h
  ep1Configured := fun _ => .inl rfl
  busyConfigured := fun h => nomatch h
  setupQualifies := fun _ => rfl
  silent0 := fun h => nomatch h
  silent1 := fun h => nomatch h
  poweredUnconfigured := fun h => nomatch h
  resetUnconfigured := fun h => nomatch h
  flags0 := fun h => by simp [s3, s2, s1, s0, State.reset, Istat.empty] at h
  flags1 := fun h => by simp [s3, s2, s1, s0, State.reset, Istat.empty] at h
  pending := .inl rfl
  transfer := fun _ h => nomatch h
  bridge := fun _ h => nomatch h
  lastLen := (by decide : s3.ep1TxLastLen ≤ 64)
  snapshot := fun _ h => nomatch h

/-- In the middle of SET_ADDRESS, its status packet acknowledged, the invocation entered, `BR.WRITE` in progress. -/
def busy : State :=
  { withTransfer settingAddress s1 with
    pendingAddr := some 5
    ep0 := ⟨.control, true, true, false, .nak, .nak, none, none, true⟩
    istat := Istat.ofWord 0x0022
    dispSnap := some (Istat.ofWord 0x0002)
    appOp := some ⟨.write, 0, 0, 2, 1, [0x41, 0x42]⟩ }

theorem busy_invariant : busy.Invariant where
  paramsOk := by decide
  running := rfl
  notFatal := rfl
  table := ⟨rfl, rfl, fixture_entry0, fixture_entry1, fixture_apart⟩
  rxBound := by decide
  txBound := by decide
  idlePending := fun h => nomatch h
  poweredSilent := fun h => nomatch h
  ep1Configured := fun h => nomatch h
  busyConfigured := fun h => nomatch h
  setupQualifies := fun _ => rfl
  silent0 := fun h => nomatch h
  silent1 := fun _ => ⟨rfl, rfl, rfl, rfl⟩
  poweredUnconfigured := fun h => nomatch h
  resetUnconfigured := fun h => nomatch h
  flags0 := fun _ => rfl
  flags1 := fun h => by simp [busy, Istat.ofWord] at h
  pending := .inr ⟨.inl rfl, settingAddress, rfl, rfl, rfl⟩
  transfer := by
    intro t h
    obtain rfl : settingAddress = t := Option.some.inj h
    unfold ControlTransfer.isConsistent; decide
  bridge := by
    intro op h
    obtain rfl : (⟨.write, 0, 0, 2, 1, [0x41, 0x42]⟩ : AppOp) = op := Option.some.inj h
    exact ⟨by decide, rfl, by decide, by decide⟩
  lastLen := by decide
  snapshot := by
    intro f h
    obtain rfl : Istat.ofWord 0x0002 = f := Option.some.inj h
    decide

theorem ep0_ready : s1.ep0Ready := ⟨rfl, rfl, fixture_entry0⟩
theorem ep1_ready : s3.ep1Ready := ⟨rfl, rfl, fixture_entry1⟩

theorem witness_DecodeUndoesEncode :
    (Instr.busIn 127 15 true).wellFormed = true ∧ encode (.busIn 127 15 true) = some (.B, [0x59, 0x7F, 0x0F, 0x01]) := by
  decide

theorem witness_EncodeUndoesDecode :
    decode .C [0x21, 0x01, 0x01, 0x03, 0xEE] = .ok (.epSetStatus .ep1 .rx .valid, [0xEE]) := by decide

theorem witness_SetupPacketSelectsTheRequest :
    ([] : List Byte).length ≠ 8 ∧ (List.replicate 9 (0 : Byte)).length ≠ 8 := by decide

theorem witness_WordsThatNameNothingAreRefused :
    (0x073F : Half) &&& 0xF8C0 = 0
    ∧ (0x073F : Half) ∉ [0, 0x0010, 0x0100, 0x0200, 0x0400, 0x0002, 0x0011, 0x0001, 0x0004, 0x0008, 0x0020]
    ∧ (0x01 : Byte) ≠ 0x00 ∧ (0x13 : Byte) ∉ [0x10, 0x11, 0x12, 0x20, 0x21, 0x22]
    ∧ (0x36 : Byte) ∉ [0x30, 0x31, 0x32, 0x33, 0x34, 0x35] ∧ (0x63 : Byte) ∉ [0x5D, 0x51, 0x59, 0x60, 0x61, 0x62]
    ∧ 1 < (2 : Byte).toNat ∧ 3 < (4 : Byte).toNat ∧ 127 < (128 : Byte).toNat ∧ 15 < (16 : Byte).toNat := by decide

theorem witness_StepRunsDecodedInstruction :
    s3.lifecycle = .running ∧ decodeExact .A [0x35] = .ok .brKick
    ∧ decodeExact .A [0x36] = .error .unknownOperation := by decide

theorem witness_StepGivesEachAgentItsTurn :
    s3.lifecycle = .running ∧ busy.fatal = false ∧ busy.dispSnap ≠ none ∧ busy.appOp ≠ none
    ∧ s3.inputs = [] ∧ s3.fatal = false ∧ s3.dispSnap = none ∧ s3.istat.irq = false ∧ s3.appOp = none
    ∧ ({ s3 with fatal := true } : State).appOp = none := by decide

theorem witness_layout_good : layoutGood before.params := ⟨fixture_entry0, fixture_entry1, fixture_apart⟩

theorem witness_layout_bad : ¬ layoutGood beforeBad.params := fun h => absurd h.1.1 (by decide)

theorem witness_InitRunsFirstOnceAndSetsThePowerOnState :
    before.lifecycle = .off ∧ beforeBad.lifecycle = .off ∧ s0.lifecycle ≠ .off
    ∧ decodeExact .P [0x00] = .ok .init ∧ decodeExact .A [0x35] = .ok .brKick ∧ (Instr.brKick ≠ .init) := by decide

/-- V10 (lowest legal offsets) and V3. -/
theorem witness_BdtConfigureReservesRegionsOrRaises :
    inside.lifecycle = .initialising ∧ layoutOk inside .ep0 0x0010 0x0050 8 = true
    ∧ layoutOk inside .ep0 0x0041 0x0080 64 = false ∧ s0.lifecycle ≠ .initialising := by decide

theorem witness_TableCountsAreWrittenAndReadAlone :
    s0.bdtConfigured .ep0 = true ∧ (64 : Half).toNat ≤ 64 ∧ 64 < (65 : Half).toNat
    ∧ inside.bdtConfigured .ep1 = false := by decide

theorem witness_SetStatusOnlyRequests :
    (s3.ep .ep1).configured = true ∧ (s2.ep .ep1).configured = false := by decide

theorem witness_ToggleFlipsOneBit :
    (s3.ep .ep1).configured = true ∧ (s1.ep .ep0).configured = true ∧ (s2.ep .ep1).configured = false := by decide

theorem witness_BrWriteSnapshotsStoresAndPublishes :
    s3.appOp = none ∧ busy.appOp = some ⟨.write, 0, 0, 2, 1, [0x41, 0x42]⟩
    ∧ ([0x41, 0x42] : List Byte)[1]? = some 0x42 := by decide

theorem witness_BrReadSnapshotsLoadsAndPublishes :
    s3.appOp = none
    ∧ ({ s3 with appOp := some ⟨.read, 1, 0, 1, 0, []⟩ } : State).appOp = some ⟨.read, 1, 0, 1, 0, []⟩
    ∧ ({ s3 with appOp := some ⟨.read, 1, 0, 1, 1, [7]⟩ } : State).appOp = some ⟨.read, 1, 0, 1, 1, [7]⟩ := by decide

theorem witness_SecondBridgeOperationIsRefused :
    isBridgeOp .brKick = true ∧ s3.appOp = none ∧ busy.appOp ≠ none := by decide

theorem witness_WholeWriteAppendsTheAcceptedBytes :
    s3small.appOp = none ∧ Params.capOk s3small.params.txCap = true ∧ s3small.txrb.count ≤ s3small.params.txCap := by
  decide

theorem witness_WholeReadTakesTheOldestBytes : s3.appOp = none := by decide

theorem witness_QueriesReturnAndKickRaisesItsFlag : s0.appOp = none := by decide

theorem witness_ApplicationTouchesOnlyItsOwn :
    isBridgeOp .brKick = true ∧ (nextHas (exec .brKick s3) fun _ => true)
    ∧ nextHas (appMicroStep busy) fun _ => true := by decide

/-- A state in which each of the four indices moves: `BULK.OUT_DONE`, `BULK.KICK`, and the two publishing micro-steps. -/
theorem witness_EachRingIndexHasOneWriter :
    (nextHas (exec .init before) fun _ => true)
    ∧ (nextHas (exec .bulkOutDone (withPma 0x0100 [7] { s3 with bdt1 := { s3.bdt1 with rxCount := 1 } })) fun t =>
      t.rxrb.head != s3.rxrb.head)
    ∧ (nextHas (exec .bulkKick { s3 with txrb := ⟨[(0, 1)], 1, 0⟩ }) fun t => t.txrb.tail != 0)
    ∧ (nextHas (appMicroStep { s3 with appOp := some ⟨.read, 1, 0, 1, 1, [7]⟩ }) fun t => t.rxrb.tail != 0)
    ∧ nextHas (appMicroStep { s3 with appOp := some ⟨.write, 0, 0, 1, 1, [7]⟩ }) fun t => t.txrb.head != 0 := by decide

theorem witness_DispatchEntersWithASnapshot :
    s3.fatal = false ∧ s3.dispSnap = none ∧ ({ s3 with istat := Istat.ofWord 0x0004 } : State).istat.irq = true := by
  decide

theorem witness_DispatchHandlesTheFirstEvent :
    busy.fatal = false ∧ busy.dispSnap = some (Istat.ofWord 0x0002)
    ∧ (Istat.ofWord 0x073F).has .reset = true
    ∧ (∀ e', (Istat.ofWord 0x073F).has e' = true → Event.priority .reset ≤ e'.priority)
    ∧ (Istat.ofWord 0x0020).has .kick = true
    ∧ (∀ e', (Istat.ofWord 0x0020).has e' = true → Event.priority .kick ≤ e'.priority)
    ∧ Istat.empty.irq = false
    ∧ (Istat.ofWord 0x0010).setup = true ∧ (∀ e, (Istat.ofWord 0x0010).has e = false)
    ∧ ({ s3 with fatal := true } : State).fatal = true ∧ (s3.dispSnap = none ∧ s3.istat.irq = false) := by
  refine ⟨by decide, by decide, by decide, ?_, by decide, ?_, by decide, by decide, ?_, by decide, by decide⟩ <;>
    intro e <;> cases e <;> decide

theorem witness_HandlersClearOnlyTheirFlags :
    eventOf .evSuspend = some .susp ∧ s3.fatal = false ∧ (nextHas (exec .evSuspend s3) fun _ => true)
    ∧ eventOf .ctrlInDone = none ∧ isLinkOp .ctrlInDone = false
    ∧ nextHas (exec .ctrlInDone s3) fun _ => true := by decide

theorem witness_EvResetReinitialisesTheDevice : s3.fatal = false := by decide

theorem witness_SuspendAndWakeupMoveOnlyTheirState :
    s3.fatal = false ∧ s3.devState = .configured
    ∧ ({ s3 with devState := .suspended } : State).devState = .suspended := by decide

theorem witness_EndpointZeroHandlersRunTheirBodies : s1.fatal = false ∧ s1.ep0Ready := ⟨rfl, ep0_ready⟩

theorem witness_EndpointOneHandlersRunTheirBodies :
    s3.fatal = false ∧ s3.ep1Ready ∧ s2.fatal = false ∧ s2.ep1.configured = false := ⟨rfl, ep1_ready, rfl, rfl⟩

theorem witness_SetupAbortsAndPerformsTheRequest :
    s1.ep0Ready ∧ s1.bdt0.rxCount ≠ 8
    ∧ (withSetup [0x80, 0, 0, 0, 0, 0, 2, 0] s1).ep0Ready ∧ (withSetup [0x80, 0, 0, 0, 0, 0, 2, 0] s1).bdt0.rxCount = 8 :=
  ⟨ep0_ready, by decide, ⟨rfl, rfl, by unfold entryOk; decide⟩, rfl⟩

/-- One transfer for each clause: more data; a terminating packet; the wait for the host; the end of a status stage
with and without a staged address; no effect. -/
theorem witness_InCompletionAdvancesTheTransfer :
    s1.ep0Ready ∧ s1.ct = none
    ∧ (∀ c, (withTransfer c s1).ep0Ready ∧ (withTransfer c s1).ct = some c)
    ∧ (sendingCc.phase = .dataStage ∧ sendingCc.stage = .dataIn)
    ∧ ({ sendingCc with lastLen := 63 } : ControlTransfer).pos + 63 < sendingCc.data.length
    ∧ (sendingCc.data.length ≤ sendingCc.pos + sendingCc.lastLen ∧ sendingCc.lastLen = 64
        ∧ sendingCc.data.length < sendingCc.length.toNat)
    ∧ (sendingDd.data.length ≤ sendingDd.pos + sendingDd.lastLen
        ∧ ¬ (sendingDd.lastLen = 64 ∧ sendingDd.data.length < sendingDd.length.toNat))
    ∧ (settingAddress.phase = .statusStage ∧ settingAddress.stage ≠ .dataIn)
    ∧ s1.pendingAddr = none ∧ busy.pendingAddr = some 5
    ∧ (¬ (settingCoding.phase = .dataStage ∧ settingCoding.stage = .dataIn)
        ∧ ¬ (settingCoding.phase = .statusStage ∧ settingCoding.stage ≠ .dataIn)) :=
  ⟨ep0_ready, rfl, fun _ => ⟨ep0_ready, rfl⟩, by decide, by decide, by decide, by decide, by decide, rfl, rfl, by decide⟩

/-- One transfer for each clause: a payload of 7 bytes and of another length, the end of a data-in transfer, no effect. -/
theorem witness_OutCompletionEndsOrTakesLineCoding :
    s1.ep0Ready ∧ s1.ct = none ∧ (∀ c, (withTransfer c s1).ep0Ready)
    ∧ (settingCoding.phase = .dataStage ∧ settingCoding.stage = .dataOut) ∧ s1.bdt0.rxCount ≠ 7
    ∧ ({ s1 with bdt0 := { s1.bdt0 with rxCount := 7 } } : State).ep0Ready
    ∧ (sendingDd.stage = .dataIn ∧ sendingDd.phase ≠ .setup)
    ∧ (¬ (settingAddress.phase = .dataStage ∧ settingAddress.stage = .dataOut)
        ∧ ¬ (settingAddress.stage = .dataIn ∧ settingAddress.phase ≠ .setup)) :=
  ⟨ep0_ready, rfl, fun _ => ep0_ready, by decide, by decide, ⟨rfl, rfl, by unfold entryOk; decide⟩, by decide, by decide⟩

theorem witness_EndpointZeroWorkNeedsItConfigured :
    s0.ep0.configured = false ∧ isEp0Work .ctrlInDone = true ∧ s0.fatal = false := by decide

theorem witness_StatusAndLineCodingAreReplied : s1.ep0Ready := ep0_ready

theorem witness_DescriptorsAreServedOrStalled :
    s1.ep0Ready
    ∧ s1.params.descriptor ((0x0100 : Half).extractLsb' 8 8) ((0x0100 : Half).extractLsb' 0 8) = some dd
    ∧ s1.params.descriptor ((0x0300 : Half).extractLsb' 8 8) ((0x0300 : Half).extractLsb' 0 8) = none :=
  ⟨ep0_ready, by decide, by decide⟩

/-- Accepted: 127 in Default. Stalled: 128; a length; address 0 in Addressed; any in Configured. -/
theorem witness_SetAddressStagesOrStalls :
    s1.ep0Ready ∧ s2.ep0Ready ∧ s3.ep0Ready
    ∧ ¬ ((0 : Half) ≠ 0 ∨ 127 < (127 : Half).toNat ∨ (s1.devState ≠ .default ∧ s1.devState ≠ .addressed)
      ∨ ((127 : Half) = 0 ∧ s1.devState = .addressed))
    ∧ 127 < (128 : Half).toNat ∧ (1 : Half) ≠ 0 ∧ s2.devState = .addressed
    ∧ (s3.devState ≠ .default ∧ s3.devState ≠ .addressed) :=
  ⟨ep0_ready, ep0_ready, ep0_ready, by decide, by decide, by decide, rfl, by decide⟩

/-- Accepted: value 1 in Addressed. Stalled: value 2; in Default. -/
theorem witness_SetConfigurationEnablesEndpointOne :
    s2.ep0Ready ∧ s1.ep0Ready
    ∧ ¬ ((0 : Half) ≠ 0 ∨ (1 : Half).extractLsb' 8 8 ≠ 0 ∨ (1 : Half).extractLsb' 0 8 ≠ s2.params.configValue
      ∨ (s2.devState ≠ .addressed ∧ s2.devState ≠ .configured))
    ∧ (2 : Half).extractLsb' 0 8 ≠ s2.params.configValue
    ∧ (s1.devState ≠ .addressed ∧ s1.devState ≠ .configured) :=
  ⟨ep0_ready, ep0_ready, by decide, by decide, by decide⟩

theorem witness_SetLineCodingWaitsForItsPayload : s1.ep0Ready ∧ (8 : Half) ≠ 7 := ⟨ep0_ready, by decide⟩

theorem witness_SetControlLineStateIsAcknowledged : s1.ep0Ready ∧ (1 : Half) ≠ 0 := ⟨ep0_ready, by decide⟩

theorem witness_UnsupportedRequestsStallEndpointZero : s1.ep0.configured = true := by decide

theorem witness_BulkOutKeepsWhatFitsAndCountsTheRest :
    s3.ep1Ready ∧ Params.capOk s3.params.rxCap = true ∧ s3.rxrb.count ≤ s3.params.rxCap ∧ s2.ep1.configured = false :=
  ⟨ep1_ready, by decide, by decide, rfl⟩

theorem witness_BulkInCompletionSendsTheNextPacket : s3.ep1Ready ∧ s2.ep1.configured = false := ⟨ep1_ready, rfl⟩

theorem witness_BulkKickStartsAnIdleEndpoint :
    s3.ep1Ready ∧ s3.ep1TxBusy = false ∧ s2.ep1.configured = false
    ∧ ({ s3 with ep1TxBusy := true } : State).ep1TxBusy = true := ⟨ep1_ready, rfl, rfl, rfl⟩

theorem witness_LinkStepsApplyRequestsFirst :
    s3.fatal = false ∧ nextHas (exec (.epSetStatus .ep1 .tx .valid) s3) fun _ => true := by decide

/-- Taken: S1 (V66). Not taken: V69. -/
theorem witness_BusSetupIsTakenWheneverEnabled :
    s1.fatal = false ∧ (0 : BitVec 7) = s1.devAddr ∧ s1.bdtConfigured0 = true
    ∧ [0x80, 6, 0, 1, 0, 0, (0x12 : Byte), 0].length = 8 ∧ (applyRequests s1).ep0.rxStat ≠ .disabled
    ∧ 8 ≤ s1.bdt0.rxMaxCount.toNat ∧ [0x80, 6, 0, 1, 0, 0, (0x12 : Byte)].length ≠ 8 := by decide

theorem witness_setup_entry : entryOk s1.params s1.bdt0 := fixture_entry0

/-- S3 with each of the four receive statuses; a payload of 65, of 64 with the wrong toggle, of 64 with the right one. -/
theorem witness_BusOutIsAnsweredByStatus :
    s3.fatal = false ∧ (5 : BitVec 7) = s3.devAddr ∧ (1 : BitVec 4).setWidth 8 = Ep.number .ep1
    ∧ s3.bdtConfigured .ep1 = true ∧ ((applyRequests s0).ep .ep1).rxStat = .disabled
    ∧ ((applyRequests { s3 with ep1 := { s3.ep1 with rxStatReq := some .stall } }).ep .ep1).rxStat = .stall
    ∧ ((applyRequests { s3 with ep1 := { s3.ep1 with rxStatReq := some .nak } }).ep .ep1).rxStat = .nak
    ∧ ((applyRequests s3).ep .ep1).rxStat = .valid
    ∧ (s3.bdt .ep1).rxMaxCount.toNat < (List.replicate 65 (0 : Byte)).length
    ∧ (List.replicate 64 (0 : Byte)).length ≤ (s3.bdt .ep1).rxMaxCount.toNat
    ∧ true ≠ (s3.ep .ep1).rxToggle ∧ false = (s3.ep .ep1).rxToggle := by decide

theorem witness_BusInSendsTheArmedPacket :
    s3.fatal = false ∧ (5 : BitVec 7) = s3.devAddr ∧ (1 : BitVec 4).setWidth 8 = Ep.number .ep1
    ∧ s3.bdtConfigured .ep1 = true ∧ ((applyRequests s0).ep .ep1).txStat = .disabled
    ∧ ((applyRequests { s3 with ep1 := { s3.ep1 with txStatReq := some .stall } }).ep .ep1).txStat = .stall
    ∧ ((applyRequests s3).ep .ep1).txStat = .nak
    ∧ ((applyRequests { s3 with ep1 := { s3.ep1 with txStatReq := some .valid } }).ep .ep1).txStat = .valid := by decide

theorem witness_TokensToNobodyAreNotAnswered :
    s3.fatal = false ∧ (4 : BitVec 7) ≠ s3.devAddr ∧ 2 ≤ (2 : BitVec 4).toNat
    ∧ inside.bdtConfigured0 = false ∧ inside.bdtConfigured1 = false
    ∧ isLinkOp .busReset = true ∧ ({ s3 with fatal := true } : State).fatal = true := by decide

theorem witness_BusResetDisablesTheEndpoints : s3.fatal = false := by decide

/-- A transaction that raises each completion flag, and one that writes packet memory. -/
theorem witness_LinkWritesOnlyWhatItMay :
    isLinkOp (.busOut 5 1 false [0x41]) = true
    ∧ (nextHas (exec (.busOut 5 1 false [0x41]) s3) fun t => t.istat.ctEp1Rx && t.pma != s3.pma)
    ∧ (nextHas (exec (.busSetup 5 0 [0, 5, 5, 0, 0, 0, 0, 0]) s3) fun t => t.istat.ctEp0Rx)
    ∧ (nextHas (exec (.busIn 5 1 true) { s3 with ep1 := { s3.ep1 with txStat := .valid } }) fun t => t.istat.ctEp1Tx)
    ∧ nextHas (exec (.busIn 5 0 true) { s3 with ep0 := { s3.ep0 with txStat := .valid } }) fun t => t.istat.ctEp0Tx
    := by decide

theorem witness_EveryStepKeepsMemoriesCanonical :
    busy.memoriesCanonical = true ∧ nextHas (step busy) fun _ => true := by decide

/-- S3 with a bus reset next; and `busy`, with the dispatcher next. -/
theorem witness_AgentStepsKeepTheInvariant :
    (State.Invariant { s3 with inputs := [.request .B [0x60]] }
      ∧ State.nextIsAgentStep { s3 with inputs := [.request .B [0x60]] } = true
      ∧ (nextHas (step { s3 with inputs := [.request .B [0x60]] }) fun t => t.istat.reset))
    ∧ busy.Invariant ∧ busy.nextIsAgentStep = true ∧ nextHas (step busy) fun t => t.devState == .addressed :=
  ⟨⟨s3_invariant _, by decide, by decide⟩, busy_invariant, by decide, by decide⟩

theorem witness_AgentStepsStopOnlyOnBadRequests :
    busy.Invariant ∧ busy.nextIsAgentStep = true := ⟨busy_invariant, by decide⟩

theorem witness_AnInvocationHandlesEveryFlag : busy.Invariant ∧ s3.Invariant
    ∧ s3.dispSnap = none := ⟨busy_invariant, s3_invariant [], rfl⟩

theorem witness_ReceivedPacketReachesTheReader :
    s3.Invariant ∧ s3.istat.irq = false ∧ s3.dispSnap = none ∧ s3.appOp = none
    ∧ (applyRequests s3).ep1.rxStat = .valid ∧ (List.replicate 64 (7 : Byte)).length ≤ s3.bdt1.rxMaxCount.toNat
    ∧ s3.rxrb.count = 0 ∧ (List.replicate 64 (7 : Byte)).length ≤ s3.params.rxCap :=
  ⟨s3_invariant [], by decide, by decide, by decide, by decide, by decide, by decide, by decide⟩

theorem witness_KickedBytesReachTheHost :
    s3.Invariant ∧ s3.istat.irq = false ∧ s3.dispSnap = none ∧ s3.appOp = none
    ∧ s3.ep1.configured = true ∧ s3.ep1TxBusy = false ∧ s3.txrb.count = 0
    ∧ 1 ≤ (List.replicate 65 (7 : Byte)).length ∧ (List.replicate 65 (7 : Byte)).length ≤ s3.params.txCap :=
  ⟨s3_invariant [], by decide, by decide, by decide, by decide, by decide, by decide, by decide, by decide⟩

theorem witness_DeviceStateMovesOnlyAsNamed :
    busy.pendingOk ∧ busy.devState ≠ .addressed
    ∧ nextHas (exec .ctrlInDone busy) fun t => t.devState == .addressed :=
  ⟨busy_invariant.pending, by decide, by decide⟩

theorem witness_LineCodingAndParametersPersist :
    (nextHas (exec .ctrlOutDone (withPma 0x0080 [0x80, 0x25, 0, 0, 0, 0, 8]
        (withTransfer settingCoding { s3 with bdt0 := { s3.bdt0 with rxCount := 7 } }))) fun t =>
      t.lineCoding != s3.lineCoding)
    ∧ nextHas (step busy) fun _ => true := by decide

end Sys2Proof.Tests
end

section
/-! What every step of the four agents keeps (spec/10_state.md R51): the invariant is carried through each state
operation, each shared command, each handler, the link and the application; O54 is assembled from these. -/

namespace Sys2Proof.Machine

section Invariant
variable {s t : State}

/-! ## What the parameters give -/

theorem rxCap_ok (h : s.Invariant) : Params.capOk s.params.rxCap = true := by
  have := h.paramsOk
  simp only [Params.wf, Bool.and_eq_true] at this
  tauto

theorem txCap_ok (h : s.Invariant) : Params.capOk s.params.txCap = true := by
  have := h.paramsOk
  simp only [Params.wf, Bool.and_eq_true] at this
  tauto

/-! ## The invariant under the state's operations -/

/-- With an endpoint configured the block is past Powered, and no bus reset is waiting for its handler. -/
theorem live_of_configured (h : s.Invariant) {e : Ep} (hc : (s.ep e).configured = true) :
    s.devState ≠ .powered ∧ s.istat.reset ≠ true := by
  cases e
  · exact ⟨fun hd => by simp [(h.poweredUnconfigured hd).1] at hc, fun hr => by simp [(h.resetUnconfigured hr).1] at hc⟩
  · exact ⟨fun hd => by simp [(h.poweredUnconfigured hd).2] at hc, fun hr => by simp [(h.resetUnconfigured hr).2] at hc⟩

/-- The registers of endpoint 0 are free while it stays configured. -/
theorem invariant_setEp0 (h : s.Invariant) {x : Endpoint} (hc : s.ep0.configured = true) (hx : x.configured = true) :
    State.Invariant { s with ep0 := x } := by
  obtain ⟨hlive, hreset⟩ := live_of_configured h (e := .ep0) hc
  exact { h with
    poweredSilent := fun hd => absurd hd hlive
    silent0 := fun hn => absurd hx (by simpa using hn)
    poweredUnconfigured := fun hd => absurd hd hlive
    resetUnconfigured := fun hr => absurd hr hreset
    flags0 := fun _ => hx }

/-- The registers of endpoint 1 are free while it stays configured. -/
theorem invariant_setEp1 (h : s.Invariant) {x : Endpoint} (hc : s.ep1.configured = true) (hx : x.configured = true) :
    State.Invariant { s with ep1 := x } := by
  obtain ⟨hlive, hreset⟩ := live_of_configured h (e := .ep1) hc
  exact { h with
    poweredSilent := fun hd => absurd hd hlive
    ep1Configured := fun _ => h.ep1Configured hc
    busyConfigured := fun _ => .inl hx
    silent1 := fun hn => absurd hx (by simpa using hn)
    poweredUnconfigured := fun hd => absurd hd hlive
    resetUnconfigured := fun hr => absurd hr hreset
    flags1 := fun _ => hx }

theorem invariant_setEp (h : s.Invariant) {e : Ep} {x : Endpoint} (hc : (s.ep e).configured = true)
    (hx : x.configured = true) : (s.setEp e x).Invariant := by
  cases e
  · exact invariant_setEp0 h hc hx
  · exact invariant_setEp1 h hc hx

/-- The entry of either endpoint is well-formed (R34). -/
theorem invariant_entryOk (h : s.Invariant) (e : Ep) : entryOk s.params (s.bdt e) := by
  obtain ⟨-, -, h0, h1, -⟩ := h.table
  cases e
  · exact h0
  · exact h1

/-- The counts of a table entry are free in their ranges; the regions do not depend on them. -/
theorem invariant_setCounts (h : s.Invariant) {e : Ep} {n m : Half} (hn : n.toNat ≤ 64)
    (hm : m.toNat ≤ (s.bdt e).rxMaxCount.toNat) :
    (s.setBdt e { s.bdt e with txCount := n, rxCount := m }).Invariant := by
  obtain ⟨hc0, hc1, h0, h1, ha⟩ := h.table
  obtain ⟨a1, a2, a3, a4, a5, a6, -, -, a7⟩ := invariant_entryOk h e
  have hb : entryOk s.params { s.bdt e with txCount := n, rxCount := m } := ⟨a1, a2, a3, a4, a5, a6, hn, hm, a7⟩
  cases e
  · exact { h with table := ⟨hc0, hc1, hb, h1, ha⟩ }
  · exact { h with table := ⟨hc0, hc1, h0, hb, ha⟩ }

/-- A transfer in progress is free as long as it is consistent and agrees with the staged address (R51 (c)). -/
theorem invariant_setTransfer (h : s.Invariant) {c : Option ControlTransfer} {p : Option (BitVec 7)}
    (hc : ∀ x, c = some x → x.isConsistent) (hp : State.pendingOk { s with ct := c, pendingAddr := p }) :
    State.Invariant { s with ct := c, pendingAddr := p } :=
  { h with
    idlePending := fun hn => hp.elim id fun ⟨_, x, hx, _⟩ => by rw [hn] at hx; cases hx
    pending := hp
    transfer := hc }

/-- With no address staged any consistent transfer may stand in `ct`. -/
theorem invariant_setCt (h : s.Invariant) {c : ControlTransfer} (hp : s.pendingAddr = none)
    (hc : c.isConsistent) : State.Invariant { s with ct := some c } :=
  { h with
    idlePending := fun hn => nomatch hn
    pending := .inl hp
    transfer := fun _ hx => Option.some.inj hx ▸ hc }

/-- The flags are free but for `reset`, where `setup` stands beside `ctEp0Rx` and completions have an endpoint. -/
theorem invariant_setIstat (h : s.Invariant) {f : Istat} (hr : f.reset = s.istat.reset)
    (hs : f.ctEp0Rx = false → f.setup = false)
    (h0 : f.ctEp0Rx = true ∨ f.ctEp0Tx = true → s.ep0.configured = true)
    (h1 : f.ctEp1Rx = true ∨ f.ctEp1Tx = true → s.ep1.configured = true) :
    State.Invariant { s with istat := f } :=
  { h with
    busyConfigured := fun hb => (h.busyConfigured hb).imp id fun e => hr.trans e
    setupQualifies := hs
    resetUnconfigured := fun e => h.resetUnconfigured (hr.symm.trans e)
    flags0 := h0
    flags1 := h1 }

/-! ## The invariant under the shared commands -/

theorem setStatus_invariant (h : s.Invariant) {e : Ep} {d : Dir} {st : Status} (ht : setStatus e d st s = .next t) :
    t.Invariant := by
  obtain ⟨hc, rfl⟩ := setStatus_eq_next.1 ht
  exact invariant_setEp h hc (by simpa using hc)

theorem toggleData_invariant (h : s.Invariant) {e : Ep} {d : Dir} (ht : toggleData e d s = .next t) :
    t.Invariant := by
  obtain ⟨hc, rfl⟩ := toggleData_eq_next.1 ht
  exact invariant_setEp h hc (by simpa using hc)

theorem setTxCount_invariant (h : s.Invariant) {e : Ep} {n : Half} (ht : setTxCount e n s = .next t) :
    t.Invariant := by
  obtain ⟨-, hn, rfl⟩ := setTxCount_eq_next.1 ht
  obtain ⟨-, -, -, -, -, -, -, hrx, -⟩ := invariant_entryOk h e
  exact invariant_setCounts h hn hrx

/-- Packet memory is no part of the invariant. -/
theorem pmaWrite_invariant (h : s.Invariant) {a : Nat} {bs : List Byte} (ht : pmaWrite a bs s = .next t) :
    t.Invariant := by
  obtain ⟨-, rfl⟩ := pmaWrite_eq_next.1 ht
  exact { h with }

/-- Ending the transfer, with the staged address gone. -/
theorem invariant_endTransfer (h : s.Invariant) : State.Invariant { s with ct := none, pendingAddr := none } :=
  invariant_setTransfer h (fun _ hx => nomatch hx) (.inl rfl)

theorem stall0_invariant (h : s.Invariant) (ht : stall0 s = .next t) : t.Invariant := by
  obtain ⟨hc, rfl⟩ := stall0_eq_next.1 ht
  exact invariant_endTransfer (invariant_setEp0 h (x := { s.ep0 with
    txStatReq := some .stall, rxStatReq := some .stall, stalled := true }) hc hc)

theorem aborted_invariant (h : s.Invariant) (hc : s.ep0.configured = true) : s.aborted.Invariant :=
  invariant_endTransfer (invariant_setEp0 h (x := { s.ep0 with
    txStatReq := some .nak, rxStatReq := some .nak, txToggle := true, rxToggle := true, stalled := false }) hc hc)

/-! ## The invariant under the work of endpoint 0 -/

/-- `StartStatusIn` keeps the invariant if the transfer it stores does. -/
theorem startStatusIn_invariant {c : ControlTransfer}
    (h : State.Invariant { s with ct := some { c with phase := .statusStage, lastLen := 0 } })
    (ht : startStatusIn c s = .next t) : t.Invariant := by
  obtain ⟨u, h1, h2⟩ := andThen_eq_next.1 ht
  exact setStatus_invariant (setTxCount_invariant h h1) h2

/-- In a status stage nothing of a reply is armed. -/
theorem isConsistent_statusStage {c : ControlTransfer} (hl : c.lastLen ≤ 64) (hc : c.pos ≤ c.data.length) :
    ControlTransfer.isConsistent { c with phase := .statusStage } := by
  simp [ControlTransfer.isConsistent, hl, hc]

/-- A data stage with a direction, what is armed inside the reply. -/
theorem isConsistent_dataStage {c : ControlTransfer} (hs : c.stage ≠ .noData) (hl : c.lastLen ≤ 64)
    (hc : c.pos + c.lastLen ≤ c.data.length) : ControlTransfer.isConsistent { c with phase := .dataStage } := by
  simp [ControlTransfer.isConsistent, hs, hl, hc, Nat.le_of_add_right_le hc]

theorem startStatusIn_invariant_of_idle {c : ControlTransfer} (h : s.Invariant) (hp : s.pendingAddr = none)
    (hc : c.pos ≤ c.data.length) (ht : startStatusIn c s = .next t) : t.Invariant :=
  startStatusIn_invariant
    (invariant_setCt h hp (isConsistent_statusStage (c := { c with lastLen := 0 }) (Nat.zero_le _) hc)) ht

theorem sendChunk_invariant {c : ControlTransfer} (h : s.Invariant) (hp : s.pendingAddr = none)
    (h1 : c.phase = .dataStage) (h2 : c.stage ≠ .noData) (h3 : c.pos ≤ c.data.length)
    (ht : sendChunk c s = .next t) : t.Invariant := by
  obtain ⟨u, e1, e2⟩ := andThen_eq_next.1 ht
  obtain ⟨v, e3, e4⟩ := andThen_eq_next.1 e2
  have hu : u.pendingAddr = none := by rw [(pmaWrite_eq_next.1 e1).2]; exact hp
  have hc : ControlTransfer.isConsistent { c with lastLen := min Config.maxPacket (c.data.length - c.pos) } := by
    have := isConsistent_dataStage (c := { c with lastLen := min Config.maxPacket (c.data.length - c.pos) }) h2
      (Nat.min_le_left _ _) (by simp only; omega)
    rwa [← h1] at this
  exact setStatus_invariant (setTxCount_invariant (invariant_setCt (pmaWrite_invariant h e1) hu hc) e3) e4

theorem startDataIn_invariant {resp : List Byte} {c : ControlTransfer} (h : s.Invariant) (hp : s.pendingAddr = none)
    (hc : c.pos ≤ c.data.length) (ht : startDataIn resp c s = .next t) : t.Invariant := by
  unfold startDataIn at ht
  split at ht
  · exact startStatusIn_invariant_of_idle h hp hc ht
  · obtain ⟨u, e1, e2⟩ := andThen_eq_next.1 ht
    exact setStatus_invariant (sendChunk_invariant h hp rfl (by simp) (Nat.zero_le _) e1) e2

/-- The address is staged in Default or Addressed, and its status stage is armed with it. -/
theorem execReqSetAddress_invariant (h : s.Invariant) {v i l : Half} (ht : execReqSetAddress v i l s = .next t) :
    t.Invariant := by
  unfold execReqSetAddress at ht
  split at ht
  · exact stall0_invariant h ht
  · rename_i hg
    have hd : s.devState = .default ∨ s.devState = .addressed := by tauto
    refine startStatusIn_invariant ?_ ht
    refine invariant_setTransfer h (fun x hx => ?_) (.inr ⟨hd, _, rfl, rfl, rfl⟩)
    exact Option.some.inj hx ▸ isConsistent_statusStage (Nat.zero_le _) (Nat.le_refl 0)

/-- SET_CONFIGURATION finds endpoint 0 configured, so no bus reset is waiting for its handler. -/
theorem invariant_enterConfigured (h : s.Invariant) (hp : s.pendingAddr = none) (hc : s.ep0.configured = true)
    {x : Endpoint} (hx : x.configured = true) :
    State.Invariant { s with devState := .configured, ep1 := x, ep1TxBusy := false, ep1TxLastLen := 0 } :=
  { h with
    poweredSilent := nofun
    ep1Configured := fun _ => .inl rfl
    busyConfigured := nofun
    silent1 := fun hn => absurd hx (by simpa using hn)
    poweredUnconfigured := nofun
    resetUnconfigured := fun hr => absurd hr (live_of_configured h (e := .ep0) hc).2
    flags1 := fun _ => hx
    pending := .inl hp
    lastLen := Nat.zero_le _ }

theorem execReqSetConfiguration_invariant (h : s.Invariant) (hp : s.pendingAddr = none)
    (hc : s.ep0.configured = true) {v i l : Half} (ht : execReqSetConfiguration v i l s = .next t) :
    t.Invariant := by
  unfold execReqSetConfiguration at ht
  split at ht
  · exact stall0_invariant h ht
  · exact startStatusIn_invariant_of_idle (invariant_enterConfigured h hp hc rfl) hp (Nat.le_refl 0) ht

theorem execReqSetLineCoding_invariant (h : s.Invariant) (hp : s.pendingAddr = none) {v i l : Half}
    (ht : execReqSetLineCoding v i l s = .next t) : t.Invariant := by
  unfold execReqSetLineCoding at ht
  split at ht
  · exact stall0_invariant h ht
  · refine setStatus_invariant (invariant_setCt h hp ?_) ht
    exact isConsistent_dataStage (c := { ControlTransfer.ofSetup 0x21 0x20 v i l with stage := .dataOut }) (by simp)
      (Nat.zero_le _) (Nat.le_refl 0)

/-- Step 5 of `CTRL.SETUP`: the previous transfer is aborted, so no address is staged. -/
theorem performRequest_invariant (h : s.Invariant) (hp : s.pendingAddr = none) (hc : s.ep0.configured = true)
    {rt rq : Byte} {v i l : Half} (ht : performRequest rt rq v i l s = .next t) : t.Invariant := by
  unfold performRequest at ht
  cases hk : selectRequest rt rq <;> simp only [hk] at ht
  case getStatus => exact startDataIn_invariant h hp (Nat.le_refl 0) ht
  case setAddress => exact execReqSetAddress_invariant h ht
  case getDescriptor =>
    unfold execReqGetDescriptor at ht
    split at ht
    · exact stall0_invariant h ht
    · exact startDataIn_invariant h hp (Nat.le_refl 0) ht
  case setConfiguration => exact execReqSetConfiguration_invariant h hp hc ht
  case setLineCoding => exact execReqSetLineCoding_invariant h hp ht
  case getLineCoding => exact startDataIn_invariant h hp (Nat.le_refl 0) ht
  case setControlLineState =>
    unfold execReqSetControlLineState at ht
    split at ht
    · exact stall0_invariant h ht
    · exact startStatusIn_invariant_of_idle h hp (Nat.le_refl 0) ht
  case unsupported => exact stall0_invariant h ht

theorem execCtrlSetup_invariant (h : s.Invariant) (ht : execCtrlSetup s = .next t) : t.Invariant := by
  obtain ⟨u, h1, h2⟩ := andThen_eq_next.1 ht
  obtain ⟨hc, rfl⟩ := abortTransfer_eq_next h1
  have ha := aborted_invariant h hc
  obtain ⟨n, -, h3⟩ := withValue_eq_next.1 h2
  split at h3
  · exact stall0_invariant ha h3
  · obtain ⟨p, -, h4⟩ := withValue_eq_next.1 h3
    exact performRequest_invariant ha rfl hc h4

/-- Only a transfer without a data stage stages an address. -/
theorem pendingAddr_none_of_stage (h : s.Invariant) {c : ControlTransfer} (hc : s.ct = some c)
    (hs : c.stage ≠ .noData) : s.pendingAddr = none := by
  obtain hp | ⟨-, x, hx, -, hn⟩ := h.pending
  · exact hp
  · rw [hc] at hx
    cases hx
    exact absurd hn hs

/-- The packet that was armed has arrived: what is left of the reply begins inside it. -/
theorem advanceDataIn_invariant (h : s.Invariant) {c : ControlTransfer} (hc : s.ct = some c)
    (hp : c.phase = .dataStage) (hs : c.stage = .dataIn) (ht : advanceDataIn c s = .next t) : t.Invariant := by
  have hn : s.pendingAddr = none := pendingAddr_none_of_stage h hc (by simp [hs])
  obtain ⟨-, -, hlast, -, harmed⟩ := h.transfer c hc
  have hpos : c.pos + c.lastLen ≤ c.data.length := harmed hp
  unfold advanceDataIn at ht
  dsimp only at ht
  split at ht
  · refine sendChunk_invariant h hn ?_ ?_ hpos ht
    · exact hp
    · simp [hs]
  · split at ht
    · obtain ⟨u, h1, h2⟩ := andThen_eq_next.1 ht
      refine setStatus_invariant (setTxCount_invariant (invariant_setCt h hn ?_) h1) h2
      have := isConsistent_dataStage (c := { c with pos := c.pos + c.lastLen, lastLen := 0 }) (by simp [hs])
        (Nat.zero_le _) hpos
      rwa [← hp] at this
    · cases ht
      exact invariant_setCt h hn (isConsistent_statusStage (c := { c with pos := c.pos + c.lastLen }) hlast hpos)

/-- A staged address is applied in Default or Addressed, where endpoint 1 is not configured (R51 (e)). -/
theorem finish_applyStagedAddress_invariant (h : s.Invariant) : (finish (applyStagedAddress s)).Invariant := by
  have hend := invariant_endTransfer h
  unfold applyStagedAddress finish
  cases hp : s.pendingAddr with
  | none =>
    rw [← hp] at hend
    exact hend
  | some a =>
    have h1 : s.ep1.configured = false := by
      obtain hn | ⟨hd, -⟩ := h.pending
      · simp [hp] at hn
      · by_contra hc
        have := h.ep1Configured (by simpa using hc)
        rcases hd with e | e <;> simp [e] at this
    by_cases ha : a = 0
    · simp only [ha, ne_eq, not_true_eq_false, if_false]
      exact { hend with }
    · simp only [ne_eq, ha, not_false_eq_true, if_true]
      exact { hend with
        poweredSilent := nofun
        ep1Configured := fun hc => absurd hc (by simp [h1])
        poweredUnconfigured := nofun
        pending := .inl rfl }

theorem execCtrlInDone_invariant (h : s.Invariant) (ht : execCtrlInDone s = .next t) : t.Invariant := by
  obtain ⟨u, h1, h2⟩ := andThen_eq_next.1 ht
  have hu := toggleData_invariant h h1
  split at h2
  · cases h2
    exact hu
  · rename_i c hc
    split at h2
    · rename_i hd
      obtain ⟨hphase, hstage⟩ := hd
      exact advanceDataIn_invariant hu hc hphase hstage h2
    · split at h2
      · cases h2
        exact finish_applyStagedAddress_invariant hu
      · cases h2
        exact hu

theorem storeLineCoding_invariant (h : s.Invariant) {c : ControlTransfer} (hc : s.ct = some c)
    (hs : c.stage = .dataOut) (ht : storeLineCoding c s = .next t) : t.Invariant := by
  obtain ⟨n, -, h1⟩ := withValue_eq_next.1 ht
  split at h1
  · exact stall0_invariant h h1
  · obtain ⟨q, -, h2⟩ := withValue_eq_next.1 h1
    obtain ⟨-, -, -, hpos, -⟩ := h.transfer c hc
    have hp : s.pendingAddr = none := pendingAddr_none_of_stage h hc (by simp [hs])
    exact startStatusIn_invariant_of_idle (s := { s with lineCoding := lineCodingOf q }) { h with } hp hpos h2

theorem execCtrlOutDone_invariant (h : s.Invariant) (ht : execCtrlOutDone s = .next t) : t.Invariant := by
  obtain ⟨u, h1, h2⟩ := andThen_eq_next.1 ht
  have hu := toggleData_invariant h h1
  split at h2
  · cases h2
    exact hu
  · rename_i c hc
    split at h2
    · rename_i hd
      exact storeLineCoding_invariant hu hc hd.2 h2
    · split at h2
      · rename_i hd
        obtain ⟨v, h3, h4⟩ := andThen_eq_next.1 h2
        cases h4
        have hp : v.pendingAddr = none := by
          rw [(setStatus_eq_next.1 h3).2]
          exact (setEp_pendingAddr _ _ _).trans (pendingAddr_none_of_stage hu hc (by simp [hd.1]))
        have := invariant_endTransfer (setStatus_invariant hu h3)
        rwa [← hp] at this
      · cases h2
        exact hu

/-! ## The invariant under the work of endpoint 1 -/

/-- The consumer's record of a `BR.READ` only asks that the ring holds what it took a count of (R79). -/
theorem invariant_produceRx (h : s.Invariant) (buf : Memory) {k : Nat} (hk : s.rxrb.count + k ≤ s.params.rxCap) :
    State.Invariant { s with rxrb := ⟨buf, s.rxrb.head + BitVec.ofNat 16 k, s.rxrb.tail⟩ } := by
  have hcap : s.params.rxCap ≤ 32768 := capOk_le (rxCap_ok h)
  have hcount := ring_count_produce buf s.rxrb k (by omega)
  exact { h with
    rxBound := hcount.trans_le hk
    bridge := fun op ho => by
      obtain ⟨hi, hop⟩ := h.bridge op ho
      refine ⟨hi, ?_⟩
      cases hkind : op.kind <;> simp only [hkind] at hop ⊢
      · exact hop
      · obtain ⟨ht, hheld, hlen⟩ := hop
        exact ⟨ht, by rw [hcount]; exact Nat.le_add_right_of_le hheld, hlen⟩ }

/-- The producer's record of a `BR.WRITE` only asks for its room, which a consumer makes larger (R79). -/
theorem invariant_consumeTx (h : s.Invariant) {k : Nat} (hk : k ≤ s.txrb.count) :
    State.Invariant { s with txrb := { s.txrb with tail := s.txrb.tail + BitVec.ofNat 16 k } } := by
  have hcount := ring_count_consume s.txrb.buf s.txrb k hk
  have hbound := h.txBound
  exact { h with
    txBound := hcount.trans_le (Nat.le_trans (Nat.sub_le _ k) hbound)
    bridge := fun op ho => by
      obtain ⟨hi, hop⟩ := h.bridge op ho
      refine ⟨hi, ?_⟩
      cases hkind : op.kind <;> simp only [hkind] at hop ⊢
      · obtain ⟨hh, hlen, hroom⟩ := hop
        exact ⟨hh, hlen, by rw [hcount]; exact Nat.le_trans (Nat.add_le_add_left (Nat.sub_le _ k) _) hroom⟩
      · exact hop }

theorem recordOverrun_invariant (h : s.Invariant) (n k : Nat) : (recordOverrun n k s).Invariant := by
  unfold recordOverrun
  split
  · exact { h with }
  · exact h

theorem execBulkOutDone_invariant (h : s.Invariant) (ht : execBulkOutDone s = .next t) : t.Invariant := by
  unfold execBulkOutDone at ht
  split at ht
  · cases ht
    exact h
  · obtain ⟨n, -, h1⟩ := withValue_eq_next.1 ht
    obtain ⟨d, -, h2⟩ := withValue_eq_next.1 h1
    obtain ⟨u, h3, h4⟩ := andThen_eq_next.1 h2
    have hbound := h.rxBound
    have hroom : s.rxrb.count + min n.toNat (s.rxrb.space s.params.rxCap) ≤ s.params.rxCap := by
      unfold Ring.space
      omega
    exact setStatus_invariant
      (toggleData_invariant (recordOverrun_invariant (invariant_produceRx h _ hroom) _ _) h3) h4

theorem armIn_invariant (h : s.Invariant) {n : Nat} (hn : n ≤ 64) (ht : armIn n s = .next t) : t.Invariant := by
  obtain ⟨u, h1, h2⟩ := andThen_eq_next.1 ht
  obtain ⟨v, h3, h4⟩ := andThen_eq_next.1 h2
  have hv := setStatus_invariant (setTxCount_invariant h h1) h3
  obtain ⟨hc, hve⟩ := setStatus_eq_next.1 h3
  have hc1 : v.ep1.configured = true := by
    rw [hve]
    exact hc
  cases h4
  exact { hv with
    busyConfigured := fun _ => .inl hc1
    lastLen := hn }

theorem tryStartIn_invariant (h : s.Invariant) {after : Bool} (ht : tryStartIn after s = .next t) :
    t.Invariant := by
  unfold tryStartIn at ht
  dsimp only at ht
  split at ht
  · obtain ⟨u, h1, h2⟩ := andThen_eq_next.1 ht
    have hu := pmaWrite_invariant h h1
    have htx : u.txrb = s.txrb := by rw [(pmaWrite_eq_next.1 h1).2]
    have hk : min Config.maxPacket s.txrb.count ≤ u.txrb.count := by
      rw [htx]
      exact Nat.min_le_right _ _
    exact armIn_invariant (invariant_consumeTx hu hk) (Nat.min_le_left _ _) h2
  · split at ht
    · exact armIn_invariant h (Nat.zero_le _) ht
    · cases ht
      exact h

theorem execBulkInDone_invariant (h : s.Invariant) (ht : execBulkInDone s = .next t) : t.Invariant := by
  unfold execBulkInDone at ht
  split at ht
  · cases ht
    exact h
  · obtain ⟨u, h1, h2⟩ := andThen_eq_next.1 ht
    have hu : State.Invariant { u with ep1TxBusy := false } :=
      { toggleData_invariant h h1 with busyConfigured := nofun }
    exact tryStartIn_invariant hu h2

theorem execBulkKick_invariant (h : s.Invariant) (ht : execBulkKick s = .next t) : t.Invariant := by
  unfold execBulkKick at ht
  split at ht
  · exact tryStartIn_invariant h ht
  · cases ht
    exact h

/-! ## The invariant under the dispatcher -/

/-- Clearing an event leaves no `setup` without `ctEp0Rx`. -/
theorem setupQualifies_clear {f : Istat} (hf : f.ctEp0Rx = false → f.setup = false) (e : Event) :
    (f.clear e).ctEp0Rx = false → (f.clear e).setup = false := by
  cases e
  case ctEp0Rx => exact fun _ => rfl
  all_goals exact hf

theorem reset_clear (f : Istat) {e : Event} (he : e ≠ .reset) : (f.clear e).reset = f.reset := by
  cases e
  case reset => exact absurd rfl he
  all_goals rfl

/-- A completion of endpoint 0 that stands after clearing an event stood before. -/
theorem completion0_of_clear {f : Istat} {e : Event} (h : (f.clear e).ctEp0Rx = true ∨ (f.clear e).ctEp0Tx = true) :
    f.ctEp0Rx = true ∨ f.ctEp0Tx = true := by
  cases e
  case ctEp0Rx => exact .inr (by simpa [Istat.clear] using h)
  case ctEp0Tx => exact .inl (by simpa [Istat.clear] using h)
  all_goals exact h

/-- A completion of endpoint 1 that stands after clearing an event stood before. -/
theorem completion1_of_clear {f : Istat} {e : Event} (h : (f.clear e).ctEp1Rx = true ∨ (f.clear e).ctEp1Tx = true) :
    f.ctEp1Rx = true ∨ f.ctEp1Tx = true := by
  cases e
  case ctEp1Rx => exact .inr (by simpa [Istat.clear] using h)
  case ctEp1Tx => exact .inl (by simpa [Istat.clear] using h)
  all_goals exact h

/-- Clearing the flag of any event but a bus reset. -/
theorem invariant_clear (h : s.Invariant) {e : Event} (he : e ≠ .reset) :
    State.Invariant { s with istat := s.istat.clear e } :=
  invariant_setIstat h (reset_clear _ he) (setupQualifies_clear h.setupQualifies e)
    (fun hf => h.flags0 (completion0_of_clear hf)) (fun hf => h.flags1 (completion1_of_clear hf))

/-- A handler whose body keeps the invariant keeps it. -/
theorem handleEvent_invariant (h : s.Invariant) {e : Event} {body : State → Result} (he : e ≠ .reset)
    (hb : ∀ u, body s = .next u → u.Invariant) (ht : handleEvent e body s = .next t) : t.Invariant := by
  obtain ⟨u, hu, rfl⟩ := (handleEvent_eq_next h.notFatal).1 ht
  exact invariant_clear (hb u hu) he

/-- The RESET handler runs on a raised `reset`, so no completion of endpoint 1 is waiting. -/
theorem execEvReset_invariant (h : s.Invariant) (hr : s.istat.reset = true) (ht : execEvReset s = .next t) :
    t.Invariant := by
  obtain ⟨u, hu, rfl⟩ := (handleEvent_eq_next h.notFatal).1 ht
  cases hu
  have h1 : ¬ (s.istat.ctEp1Rx = true ∨ s.istat.ctEp1Tx = true) := fun hf => by
    have := h.flags1 hf
    simp [(h.resetUnconfigured hr).2] at this
  exact { h with
    idlePending := fun _ => rfl
    poweredSilent := nofun
    ep1Configured := nofun
    busyConfigured := nofun
    silent0 := nofun
    silent1 := fun _ => ⟨rfl, rfl, rfl, rfl⟩
    poweredUnconfigured := nofun
    resetUnconfigured := nofun
    flags0 := fun _ => rfl
    flags1 := fun hf => absurd hf h1
    pending := .inl rfl
    transfer := nofun
    lastLen := Nat.zero_le _ }

/-- In Configured and Suspended no address is staged. -/
theorem pendingAddr_none_of_devState (h : s.Invariant) (hd : s.devState ≠ .default) (ha : s.devState ≠ .addressed) :
    s.pendingAddr = none :=
  h.pending.elim id fun ⟨hs, _⟩ => by tauto

/-- Suspending and resuming stay among the states in which endpoint 1 may be configured. -/
theorem invariant_moveConfigured (h : s.Invariant) {d : DevState}
    (hs : s.devState = .configured ∨ s.devState = .suspended) (hd : d = .configured ∨ d = .suspended) :
    State.Invariant { s with devState := d } := by
  have hp : s.pendingAddr = none := by
    rcases hs with e | e <;> exact pendingAddr_none_of_devState h (by simp [e]) (by simp [e])
  have hn : d ≠ .powered := by
    rcases hd with e | e <;> simp [e]
  exact { h with
    poweredSilent := fun e => absurd e hn
    ep1Configured := fun _ => hd
    poweredUnconfigured := fun e => absurd e hn
    pending := .inl hp }

theorem suspendBody_invariant (h : s.Invariant) (ht : suspendBody s = .next t) : t.Invariant := by
  cases ht
  split
  · rename_i hd
    exact invariant_moveConfigured h (.inl hd) (.inr rfl)
  · exact h

theorem wakeupBody_invariant (h : s.Invariant) (ht : wakeupBody s = .next t) : t.Invariant := by
  cases ht
  split
  · rename_i hd
    exact invariant_moveConfigured h (.inr hd) (.inl rfl)
  · exact h

/-- The handler of an event that stands in ISTAT. -/
theorem runHandler_invariant (h : s.Invariant) {e : Event} (he : s.istat.has e = true)
    (ht : runHandler e s = .next t) : t.Invariant := by
  cases e
  case reset => exact execEvReset_invariant h he ht
  case susp => exact handleEvent_invariant (e := .susp) h nofun (fun _ => suspendBody_invariant h) ht
  case wkup => exact handleEvent_invariant (e := .wkup) h nofun (fun _ => wakeupBody_invariant h) ht
  case ctEp0Tx => exact handleEvent_invariant (e := .ctEp0Tx) h nofun (fun _ => execCtrlInDone_invariant h) ht
  case ctEp0Rx =>
    unfold runHandler at ht
    simp only at ht
    split at ht
    · exact handleEvent_invariant (e := .ctEp0Rx) h nofun (fun _ => execCtrlSetup_invariant h) ht
    · exact handleEvent_invariant (e := .ctEp0Rx) h nofun (fun _ => execCtrlOutDone_invariant h) ht
  case ctEp1Rx => exact handleEvent_invariant (e := .ctEp1Rx) h nofun (fun _ => execBulkOutDone_invariant h) ht
  case ctEp1Tx => exact handleEvent_invariant (e := .ctEp1Tx) h nofun (fun _ => execBulkInDone_invariant h) ht
  case kick => exact handleEvent_invariant (e := .kick) h nofun (fun _ => execBulkKick_invariant h) ht

theorem leaveEvent_invariant (h : s.Invariant) {f : Istat} (hf : f.ctEp0Rx = false → f.setup = false) (e : Event) :
    (leaveEvent f e s).Invariant :=
  { h with
    snapshot := fun g hg => by
      simp only [leaveEvent] at hg
      split at hg
      · rename_i hi
        cases hg
        exact ⟨hi, setupQualifies_clear hf e⟩
      · cases hg }

/-- What one dispatcher step can do when it answers a next state: nothing, enter an invocation, end an empty one, pass
over an event that is gone from ISTAT, or run the handler of one that stands. -/
theorem execDispatch_eq_next {w : Half} (ht : execDispatch w s = .next t) :
    t = s
    ∨ (s.fatal = false ∧ s.dispSnap = none ∧ s.istat.irq = true ∧ t = enterInvocation s)
    ∨ t = { s with dispSnap := none }
    ∨ ∃ f e, s.dispSnap = some f ∧
        (t = leaveEvent f e s ∨ ∃ u, s.istat.has e = true ∧ runHandler e s = .next u ∧ t = leaveEvent f e u) := by
  unfold execDispatch at ht
  split at ht
  · exact .inl (Host.Outcome.next.inj ht).symm
  rename_i hf
  have hf : s.fatal = false := by simpa using hf
  split at ht
  · rename_i f hsnap
    unfold handlerStep at ht
    split at ht
    · exact .inr (.inr (.inl (Host.Outcome.next.inj ht).symm))
    · split at ht
      · cases ht
      · rename_i e _
        obtain ⟨u, hu, he⟩ := andThen_eq_next.1 ht
        cases he
        refine .inr (.inr (.inr ⟨f, e, hsnap, ?_⟩))
        split at hu
        · rename_i hhas
          exact .inr ⟨u, hhas, hu, rfl⟩
        · cases hu
          exact .inl rfl
  · rename_i hsnap
    split at ht
    · rename_i hi
      exact .inr (.inl ⟨hf, hsnap, hi, (Host.Outcome.next.inj ht).symm⟩)
    · exact .inl (Host.Outcome.next.inj ht).symm

theorem execDispatch_invariant (h : s.Invariant) {w : Half} (ht : execDispatch w s = .next t) : t.Invariant := by
  obtain rfl | ⟨-, -, hi, rfl⟩ | rfl | ⟨f, e, hf, hcase⟩ := execDispatch_eq_next ht
  · exact h
  · exact { h with snapshot := fun g hg => by cases hg; exact ⟨hi, h.setupQualifies⟩ }
  · exact { h with snapshot := nofun }
  · obtain ⟨-, hq⟩ := h.snapshot f hf
    obtain rfl | ⟨u, hhas, hu, rfl⟩ := hcase
    · exact leaveEvent_invariant h hq e
    · exact leaveEvent_invariant (runHandler_invariant h hhas hu) hq e

/-! ## The invariant under the link -/

theorem applyRequests_isSilent {x : Endpoint} (h : x.isSilent) : x.applyRequests.isSilent := by
  obtain ⟨h1, h2, h3, h4⟩ := h
  simp [Endpoint.isSilent, Endpoint.applyRequests, applied, h1, h2, h3, h4]

theorem applyRequests_invariant (h : s.Invariant) : (applyRequests s).Invariant :=
  { h with
    poweredSilent := fun hd => (h.poweredSilent hd).imp applyRequests_isSilent applyRequests_isSilent
    silent0 := fun hc => applyRequests_isSilent (h.silent0 hc)
    silent1 := fun hc => applyRequests_isSilent (h.silent1 hc) }

theorem respond_invariant (h : s.Invariant) (r : BusResponse) : (respond r s).Invariant := { h with }

/-- A link step keeps the invariant if what it does after applying the requests does. -/
theorem linkStep_invariant (h : s.Invariant) {body : State → Result}
    (hb : ∀ u, u.Invariant → body u = .next t → t.Invariant) (ht : linkStep body s = .next t) : t.Invariant := by
  rw [linkStep_of_running h.notFatal] at ht
  exact hb _ (applyRequests_invariant h) ht

/-- A direction in use belongs to a configured endpoint (spec/10_state.md R31). -/
theorem configured_of_stat (h : s.Invariant) {e : Ep} {d : Dir} (hs : (s.ep e).stat d ≠ .disabled) :
    (s.ep e).configured = true := by
  by_contra hc
  have hc : (s.ep e).configured = false := by simpa using hc
  have hsilent : (s.ep e).isSilent := by
    cases e
    · exact h.silent0 hc
    · exact h.silent1 hc
  obtain ⟨htx, hrx, -⟩ := hsilent
  cases d
  · exact hs htx
  · exact hs hrx

/-- A packet received on a configured endpoint raises its flag. -/
theorem invariant_setCtRx (h : s.Invariant) {e : Ep} (hc : (s.ep e).configured = true) :
    State.Invariant { s with istat := s.istat.setCtRx e } := by
  cases e
  · exact invariant_setIstat h rfl nofun (fun _ => hc) h.flags1
  · exact invariant_setIstat h rfl h.setupQualifies h.flags0 (fun _ => hc)

/-- A packet sent by a configured endpoint raises its flag. -/
theorem invariant_setCtTx (h : s.Invariant) {e : Ep} (hc : (s.ep e).configured = true) :
    State.Invariant { s with istat := s.istat.setCtTx e } := by
  cases e
  · exact invariant_setIstat h rfl h.setupQualifies (fun _ => hc) h.flags1
  · exact invariant_setIstat h rfl h.setupQualifies h.flags0 (fun _ => hc)

/-- The received count of an entry, in the range of its buffer. -/
theorem invariant_setRxCount (h : s.Invariant) {e : Ep} {n : Half} (hn : n.toNat ≤ (s.bdt e).rxMaxCount.toNat) :
    (s.setBdt e { s.bdt e with rxCount := n }).Invariant := by
  obtain ⟨-, -, -, -, -, -, htx, -⟩ := invariant_entryOk h e
  exact invariant_setCounts h htx hn

theorem acceptSetup_invariant (h : s.Invariant) {data : List Byte} (hs : s.ep0.rxStat ≠ .disabled)
    (hm : ¬ s.bdt0.rxMaxCount.toNat < 8) (ht : acceptSetup data s = .next t) : t.Invariant := by
  have hc : s.ep0.configured = true := configured_of_stat h (e := .ep0) (d := .rx) hs
  obtain ⟨u, hu, he⟩ := andThen_eq_next.1 ht
  have hui := pmaWrite_invariant h hu
  obtain ⟨-, rfl⟩ := pmaWrite_eq_next.1 hu
  cases he
  have h1 := invariant_setRxCount hui (e := .ep0) (n := 8) (Nat.le_of_not_lt hm)
  have h2 := invariant_setEp0 h1 (x := { s.ep0 with
    txStat := .nak, rxStat := .nak, txStatReq := none, rxStatReq := none }) hc hc
  exact respond_invariant (invariant_setIstat h2 (f := { s.istat with ctEp0Rx := true, setup := true }) rfl nofun
    (fun _ => hc) h.flags1) _

theorem execBusSetup_invariant (h : s.Invariant) {addr : BitVec 7} {endp : BitVec 4} {data : List Byte}
    (ht : execBusSetup addr endp data s = .next t) : t.Invariant := by
  refine linkStep_invariant h (fun u hu e => ?_) ht
  split at e
  · split at e
    · cases e
      exact respond_invariant hu _
    · rename_i hg
      obtain ⟨-, hstat, hmax⟩ : _ ∧ _ ∧ _ := by simpa only [not_or] using hg
      exact acceptSetup_invariant hu hstat hmax e
  · cases e
    exact respond_invariant hu _
  · cases e
    exact respond_invariant hu _

theorem acceptOut_invariant (h : s.Invariant) {e : Ep} {data : List Byte} (hc : (s.ep e).configured = true)
    (hl : data.length ≤ (s.bdt e).rxMaxCount.toNat) (ht : acceptOut e data s = .next t) : t.Invariant := by
  obtain ⟨u, hu, he⟩ := andThen_eq_next.1 ht
  have hui := pmaWrite_invariant h hu
  obtain ⟨-, rfl⟩ := pmaWrite_eq_next.1 hu
  cases he
  have hn : (BitVec.ofNat 16 data.length).toNat ≤ (s.bdt e).rxMaxCount.toNat := by
    rw [BitVec.toNat_ofNat]
    exact Nat.le_trans (Nat.mod_le _ _) hl
  cases e
  · exact respond_invariant (invariant_setCtRx (e := .ep0) (invariant_setEp0 (invariant_setRxCount hui (e := .ep0) hn)
      (x := { s.ep0 with rxStat := .nak }) hc hc) hc) _
  · exact respond_invariant (invariant_setCtRx (e := .ep1) (invariant_setEp1 (invariant_setRxCount hui (e := .ep1) hn)
      (x := { s.ep1 with rxStat := .nak }) hc hc) hc) _

/-- An answer by status keeps the invariant if what a Valid endpoint does keeps it. -/
theorem answerByStatus_invariant (h : s.Invariant) {st : Status} {perform : State → Result}
    (hp : st = .valid → perform s = .next t → t.Invariant) (ht : answerByStatus st perform s = .next t) :
    t.Invariant := by
  cases st
  case valid => exact hp rfl ht
  all_goals
    cases ht
    exact respond_invariant h _

theorem performOut_invariant (h : s.Invariant) {e : Ep} {tog : Bool} {data : List Byte}
    (hc : (s.ep e).configured = true) (ht : performOut e tog data s = .next t) : t.Invariant := by
  unfold performOut at ht
  split at ht
  · cases ht
    exact respond_invariant h _
  · rename_i hl
    split at ht
    · cases ht
      exact respond_invariant h _
    · exact acceptOut_invariant h hc (Nat.le_of_not_lt hl) ht

theorem execBusOut_invariant (h : s.Invariant) {addr : BitVec 7} {endp : BitVec 4} {tog : Bool} {data : List Byte}
    (ht : execBusOut addr endp tog data s = .next t) : t.Invariant := by
  refine linkStep_invariant h (fun u hu e => ?_) ht
  split at e
  · rename_i p _
    refine answerByStatus_invariant hu (fun hv => ?_) e
    exact performOut_invariant hu (configured_of_stat hu (d := .rx) (by simp [Endpoint.stat, hv]))
  · cases e
    exact respond_invariant hu _

theorem performIn_invariant (h : s.Invariant) {e : Ep} {hostAck : Bool} (hc : (s.ep e).configured = true)
    (ht : performIn e hostAck s = .next t) : t.Invariant := by
  obtain ⟨d, -, h1⟩ := withValue_eq_next.1 ht
  have hr := respond_invariant h (.packet (s.ep e).txToggle d hostAck)
  dsimp only at h1
  split at h1
  · cases h1
    cases e
    · exact invariant_setCtTx (e := .ep0) (invariant_setEp0 hr (x := { s.ep0 with txStat := .nak }) hc hc) hc
    · exact invariant_setCtTx (e := .ep1) (invariant_setEp1 hr (x := { s.ep1 with txStat := .nak }) hc hc) hc
  · cases h1
    exact hr

theorem execBusIn_invariant (h : s.Invariant) {addr : BitVec 7} {endp : BitVec 4} {hostAck : Bool}
    (ht : execBusIn addr endp hostAck s = .next t) : t.Invariant := by
  refine linkStep_invariant h (fun u hu e => ?_) ht
  split at e
  · refine answerByStatus_invariant hu (fun hv => ?_) e
    exact performIn_invariant hu (configured_of_stat hu (d := .tx) (by simp [Endpoint.stat, hv]))
  · cases e
    exact respond_invariant hu _

theorem execBusReset_invariant (h : s.Invariant) (ht : execBusReset s = .next t) : t.Invariant := by
  refine linkStep_invariant h (fun u hu e => ?_) ht
  cases e
  exact { hu with
    poweredSilent := fun _ => ⟨⟨rfl, rfl, rfl, rfl⟩, rfl, rfl, rfl, rfl⟩
    ep1Configured := nofun
    busyConfigured := fun _ => .inr rfl
    setupQualifies := fun _ => rfl
    silent0 := fun _ => ⟨rfl, rfl, rfl, rfl⟩
    silent1 := fun _ => ⟨rfl, rfl, rfl, rfl⟩
    poweredUnconfigured := fun _ => ⟨rfl, rfl⟩
    resetUnconfigured := fun _ => ⟨rfl, rfl⟩
    flags0 := fun hf => by simp [respond, Istat.onBusReset] at hf
    flags1 := fun hf => by simp [respond, Istat.onBusReset] at hf }

theorem execBusSuspend_invariant (h : s.Invariant) (ht : execBusSuspend s = .next t) : t.Invariant := by
  refine linkStep_invariant h (fun u hu e => ?_) ht
  cases e
  exact respond_invariant (invariant_setIstat hu (f := { u.istat with susp := true }) rfl hu.setupQualifies hu.flags0
    hu.flags1) _

theorem execBusWakeup_invariant (h : s.Invariant) (ht : execBusWakeup s = .next t) : t.Invariant := by
  refine linkStep_invariant h (fun u hu e => ?_) ht
  cases e
  exact respond_invariant (invariant_setIstat hu (f := { u.istat with wkup := true }) rfl hu.setupQualifies hu.flags0
    hu.flags1) _

/-- Every operation of the link keeps the invariant. -/
theorem linkOp_invariant (h : s.Invariant) {i : Instr} (hi : isLinkOp i = true) (ht : exec i s = .next t) :
    t.Invariant := by
  cases i
  case busSetup => exact execBusSetup_invariant h ht
  case busOut => exact execBusOut_invariant h ht
  case busIn => exact execBusIn_invariant h ht
  case busReset => exact execBusReset_invariant h ht
  case busSuspend => exact execBusSuspend_invariant h ht
  case busWakeup => exact execBusWakeup_invariant h ht
  all_goals cases hi

/-! ## The invariant under the application -/

/-- A bridge operation answers a next state exactly when none is in progress. -/
theorem startBridge_eq_next {body : State → State} :
    startBridge body s = .next t ↔ s.appOp = none ∧ t = body s := by
  unfold startBridge
  cases s.appOp <;> simp [eq_comm]

/-- A new record that is consistent with the rings. -/
theorem invariant_setAppOp (h : s.Invariant) {op : AppOp} (ho : op.isConsistent s) :
    State.Invariant { s with appOp := some op } :=
  { h with bridge := fun _ he => Option.some.inj he ▸ ho }

theorem execBrWrite_invariant (h : s.Invariant) {bytes : List Byte} (ht : execBrWrite bytes s = .next t) :
    t.Invariant := by
  obtain ⟨-, rfl⟩ := startBridge_eq_next.1 ht
  have hbound := h.txBound
  refine invariant_setAppOp h ⟨Nat.zero_le _, rfl, Nat.min_le_left _ _, ?_⟩
  simp only [Ring.space]
  omega

theorem execBrRead_invariant (h : s.Invariant) {m : Nat} (ht : execBrRead m s = .next t) : t.Invariant := by
  obtain ⟨-, rfl⟩ := startBridge_eq_next.1 ht
  exact invariant_setAppOp h ⟨Nat.zero_le _, rfl, Nat.min_le_right _ _, rfl⟩

theorem execBrKick_invariant (h : s.Invariant) (ht : execBrKick s = .next t) : t.Invariant := by
  obtain ⟨-, rfl⟩ := startBridge_eq_next.1 ht
  exact invariant_setIstat h rfl h.setupQualifies h.flags0 h.flags1

/-- The three queries change nothing but the answer. -/
theorem query_eq_next {i : Instr} (hi : i = .brAvail ∨ i = .brSpace ∨ i = .brOverrun) (ht : exec i s = .next t) :
    ∃ r, t = { s with appResult := r } := by
  obtain rfl | rfl | rfl := hi
  · exact ⟨_, (startBridge_eq_next.1 (show execBrAvail s = .next t from ht)).2⟩
  · exact ⟨_, (startBridge_eq_next.1 (show execBrSpace s = .next t from ht)).2⟩
  · exact ⟨_, (startBridge_eq_next.1 (show execBrOverrun s = .next t from ht)).2⟩

/-- Every operation of the application keeps the invariant. -/
theorem bridgeOp_invariant (h : s.Invariant) {i : Instr} (hi : isBridgeOp i = true) (ht : exec i s = .next t) :
    t.Invariant := by
  cases i
  case brWrite => exact execBrWrite_invariant h ht
  case brRead => exact execBrRead_invariant h ht
  case brKick => exact execBrKick_invariant h ht
  case brAvail | brSpace | brOverrun =>
    obtain ⟨r, rfl⟩ := query_eq_next (by simp) ht
    exact { h with }
  all_goals cases hi

/-- What a micro-step can do when it answers a next state: nothing, one of W2 and W3, or one of R2 and R3. -/
theorem appMicroStep_eq_next (ht : appMicroStep s = .next t) :
    (s.appOp = none ∧ t = s)
    ∨ (∃ op, s.appOp = some op ∧ op.kind = .write
        ∧ ((∃ b, op.i < op.k ∧ t = writeOne op b s) ∨ (op.k ≤ op.i ∧ t = publishWrite op s)))
    ∨ ∃ op, s.appOp = some op ∧ op.kind = .read
        ∧ ((op.i < op.k ∧ t = readOne op s) ∨ (op.k ≤ op.i ∧ t = publishRead op s)) := by
  unfold appMicroStep at ht
  split at ht
  · rename_i hop
    exact .inl ⟨hop, (Host.Outcome.next.inj ht).symm⟩
  · rename_i op hop
    split at ht <;> rename_i hk
    · refine .inr (.inl ⟨op, hop, hk, ?_⟩)
      split at ht
      · rename_i hi
        split at ht
        · rename_i b _
          exact .inl ⟨b, hi, (Host.Outcome.next.inj ht).symm⟩
        · cases ht
      · rename_i hi
        exact .inr ⟨Nat.le_of_not_lt hi, (Host.Outcome.next.inj ht).symm⟩
    · refine .inr (.inr ⟨op, hop, hk, ?_⟩)
      split at ht
      · rename_i hi
        exact .inl ⟨hi, (Host.Outcome.next.inj ht).symm⟩
      · rename_i hi
        exact .inr ⟨Nat.le_of_not_lt hi, (Host.Outcome.next.inj ht).symm⟩

/-- W2 and W3: a stored byte moves no index, and the publish takes no more than the room of the snapshot. -/
theorem writeStep_invariant (h : s.Invariant) {op : AppOp} (ho : s.appOp = some op) (hk : op.kind = .write)
    (ht : (∃ b, op.i < op.k ∧ t = writeOne op b s) ∨ (op.k ≤ op.i ∧ t = publishWrite op s)) : t.Invariant := by
  obtain ⟨-, hop⟩ := h.bridge op ho
  simp only [hk] at hop
  obtain ⟨hhead, hlen, hroom⟩ := hop
  obtain ⟨b, hi, rfl⟩ | ⟨-, rfl⟩ := ht
  · refine { h with bridge := fun o he => ?_ }
    cases he
    refine ⟨hi, ?_⟩
    simp only [hk]
    exact ⟨hhead, hlen, hroom⟩
  · have hcap := capOk_le (txCap_ok h)
    have hcount := ring_count_produce s.txrb.buf s.txrb op.k (by omega)
    exact { h with
      txBound := by
        simp only [publishWrite, hhead]
        rw [hcount]
        omega
      bridge := nofun }

/-- R2 and R3: a loaded byte moves no index, and the publish takes no more than the count of the snapshot. -/
theorem readStep_invariant (h : s.Invariant) {op : AppOp} (ho : s.appOp = some op) (hk : op.kind = .read)
    (ht : (op.i < op.k ∧ t = readOne op s) ∨ (op.k ≤ op.i ∧ t = publishRead op s)) : t.Invariant := by
  obtain ⟨-, hop⟩ := h.bridge op ho
  simp only [hk] at hop
  obtain ⟨htail, hheld, hlen⟩ := hop
  obtain ⟨hi, rfl⟩ | ⟨-, rfl⟩ := ht
  · refine { h with bridge := fun o he => ?_ }
    cases he
    refine ⟨hi, ?_⟩
    simp only [hk]
    exact ⟨htail, hheld, by simp [hlen]⟩
  · have hcount := ring_count_consume s.rxrb.buf s.rxrb op.k hheld
    have hbound := h.rxBound
    exact { h with
      rxBound := by
        simp only [publishRead, htail]
        rw [hcount]
        omega
      bridge := nofun }

theorem appMicroStep_invariant (h : s.Invariant) (ht : appMicroStep s = .next t) : t.Invariant := by
  obtain ⟨-, rfl⟩ | ⟨op, ho, hk, hw⟩ | ⟨op, ho, hk, hr⟩ := appMicroStep_eq_next ht
  · exact h
  · exact writeStep_invariant h ho hk hw
  · exact readStep_invariant h ho hk hr

end Invariant

/-! ## What the agents' interfaces carry -/

theorem eq_init_of_decodeP {bs rest : List Byte} {i : Instr} (h : decodeP bs = .ok (i, rest)) : i = .init := by
  obtain ⟨op, bs, -, h⟩ := andRead_eq_ok.1 h
  split at h
  · cases h
    rfl
  · cases h

theorem isBridgeOp_of_decodeA {bs rest : List Byte} {i : Instr} (h : decodeA bs = .ok (i, rest)) :
    isBridgeOp i = true := by
  obtain ⟨op, bs, -, h⟩ := andRead_eq_ok.1 h
  split at h
  · obtain ⟨data, bs, -, h⟩ := andRead_eq_ok.1 h
    cases h
    rfl
  split at h
  · obtain ⟨m, bs, -, h⟩ := andRead_eq_ok.1 h
    cases h
    rfl
  repeat' split at h
  all_goals cases h <;> rfl

theorem isLinkOp_of_decodeB {bs rest : List Byte} {i : Instr} (h : decodeB bs = .ok (i, rest)) :
    isLinkOp i = true := by
  obtain ⟨op, bs, -, h⟩ := andRead_eq_ok.1 h
  split at h
  · obtain ⟨addr, bs, -, h⟩ := andRead_eq_ok.1 h
    obtain ⟨endp, bs, -, h⟩ := andRead_eq_ok.1 h
    obtain ⟨data, bs, -, h⟩ := andRead_eq_ok.1 h
    cases h
    rfl
  split at h
  · obtain ⟨addr, bs, -, h⟩ := andRead_eq_ok.1 h
    obtain ⟨endp, bs, -, h⟩ := andRead_eq_ok.1 h
    obtain ⟨tog, bs, -, h⟩ := andRead_eq_ok.1 h
    obtain ⟨data, bs, -, h⟩ := andRead_eq_ok.1 h
    cases h
    rfl
  split at h
  · obtain ⟨addr, bs, -, h⟩ := andRead_eq_ok.1 h
    obtain ⟨endp, bs, -, h⟩ := andRead_eq_ok.1 h
    obtain ⟨ack, bs, -, h⟩ := andRead_eq_ok.1 h
    cases h
    rfl
  repeat' split at h
  all_goals cases h <;> rfl

theorem decodeExact_eq_ok {f : Format} {bs : List Byte} {i : Instr} (h : decodeExact f bs = .ok i) :
    decode f bs = .ok (i, []) := by
  unfold decodeExact at h
  split at h
  · rename_i hd
    cases h
    exact hd
  · cases h
  · cases h

/-- An operation offered to the block as a step of one of its agents is `INIT`, a bridge operation or the link's. -/
theorem agentRequest_cases {f : Format} {bs : List Byte} {i : Instr} (hf : Input.isAgentStep (.request f bs) = true)
    (h : decodeExact f bs = .ok i) : i = .init ∨ isBridgeOp i = true ∨ isLinkOp i = true := by
  have hd := decodeExact_eq_ok h
  cases f
  case P => exact .inl (eq_init_of_decodeP hd)
  case A => exact .inr (.inl (isBridgeOp_of_decodeA hd))
  case B => exact .inr (.inr (isLinkOp_of_decodeB hd))
  case C | E | S => cases hf

/-- What the next step runs: the dispatcher's turn or an operation offered at the head of the queue, the application's
turn, or nothing; the choice, if the queue held one, is taken off it. -/
theorem nextOp_cases (s : State) :
    (∃ i l, nextOp s = .run i { s with inputs := l }
        ∧ ((∃ w, i = .dispatch w) ∨ ∃ f bs, s.inputs = .request f bs :: l ∧ decodeExact f bs = .ok i))
    ∨ (∃ l, nextOp s = .micro { s with inputs := l }) ∨ nextOp s = .idle ∨ ∃ e, nextOp s = .bad e := by
  unfold nextOp
  split
  · rename_i f bs rest hin
    split
    · rename_i i hi
      exact .inl ⟨i, rest, rfl, .inr ⟨f, bs, hin, hi⟩⟩
    · rename_i e _
      exact .inr (.inr (.inr ⟨e, rfl⟩))
  · rename_i rest _
    exact .inl ⟨_, rest, rfl, .inl ⟨_, rfl⟩⟩
  · rename_i rest _
    exact .inr (.inl ⟨rest, rfl⟩)
  · rename_i hin
    have hs : s = { s with inputs := [] } := by rw [← hin]
    split
    · exact .inl ⟨_, [], by rw [← hs], .inl ⟨_, rfl⟩⟩
    · split
      · exact .inr (.inl ⟨[], by rw [← hs]⟩)
      · exact .inr (.inr (.inl rfl))

/-- What a step does when it answers a next state: it runs an operation or a micro-step on the state with the choice
taken off the queue, or waits. -/
theorem step_eq_next {s t : State} (h : step s = .next t) :
    (∃ i l, exec i { s with inputs := l } = .next t
        ∧ ((∃ w, i = .dispatch w) ∨ ∃ f bs, s.inputs = .request f bs :: l ∧ decodeExact f bs = .ok i))
    ∨ (∃ l, appMicroStep { s with inputs := l } = .next t) ∨ t = s := by
  unfold step at h
  obtain ⟨i, l, hn, hi⟩ | ⟨l, hn⟩ | hn | ⟨e, hn⟩ := nextOp_cases s <;> simp only [hn] at h
  · split at h
    · cases h
    · exact .inl ⟨i, l, h, hi⟩
  · split at h
    · cases h
    · exact .inr (.inl ⟨l, h⟩)
  · unfold idleStep at h
    split at h
    · cases h
    · exact .inr (.inr (Host.Outcome.next.inj h).symm)
  · cases h

/-- An operation that a step of one of the four agents runs. -/
theorem agentOp_cases {s : State} (hs : s.nextIsAgentStep = true) {i : Instr} {l : List Input}
    (hi : (∃ w, i = .dispatch w) ∨ ∃ f bs, s.inputs = .request f bs :: l ∧ decodeExact f bs = .ok i) :
    i = .init ∨ isBridgeOp i = true ∨ isLinkOp i = true ∨ ∃ w, i = .dispatch w := by
  obtain hw | ⟨f, bs, hin, hd⟩ := hi
  · exact .inr (.inr (.inr hw))
  · simp only [State.nextIsAgentStep, hin] at hs
    have := agentRequest_cases hs hd
    tauto

/-- The operations of the agents keep the invariant; a second `INIT` is refused. -/
theorem exec_agent_invariant {i : Instr} {s t : State} (h : s.Invariant)
    (hi : i = .init ∨ isBridgeOp i = true ∨ isLinkOp i = true ∨ ∃ w, i = .dispatch w) (ht : exec i s = .next t) :
    t.Invariant := by
  obtain rfl | ha | hb | ⟨w, rfl⟩ := hi
  · have hn : execInit s = .refused .secondInit := if_neg (by simp [h.running])
    rw [show exec .init s = execInit s from rfl, hn] at ht
    cases ht
  · exact bridgeOp_invariant h ha ht
  · exact linkOp_invariant h hb ht
  · exact execDispatch_invariant (w := w) h ht

/-- Settles O54: what a step of the agents runs is one of their operations, and each keeps the invariant; the queue is
no part of it. -/
theorem agentStepsKeepTheInvariant : Obligations.AgentStepsKeepTheInvariant := by
  intro s t h hs ht
  have hq : ∀ l, State.Invariant { s with inputs := l } := fun l => { h with }
  obtain ⟨i, l, he, hi⟩ | ⟨l, he⟩ | rfl := step_eq_next ht
  · exact exec_agent_invariant (hq l) (agentOp_cases hs hi) he
  · exact appMicroStep_invariant (hq l) he
  · exact h

end Sys2Proof.Machine
end

section
/-! Whole bridge operations (O20, O21), the packed views (O6), the reset state (O10). -/

namespace Sys2Proof.Machine

/-! ## Whole bridge operations -/

/-- Settles O20: the micro-steps of a write store the accepted bytes behind the contents, across the wrap. -/
theorem wholeWriteAppendsTheAcceptedBytes : Obligations.WholeWriteAppendsTheAcceptedBytes := by
  intro s bytes hop hcap hbound k
  have hk : k ≤ bytes.length := Nat.min_le_left _ _
  have hroom : s.txrb.count + k ≤ s.params.txCap := by
    have : k ≤ s.params.txCap - s.txrb.count := Nat.min_le_right _ _
    omega
  obtain ⟨hcontents, hcount⟩ := txContents_wrote hcap hk hroom
  refine ⟨s.wrote bytes k, wholeWrite_of_free bytes hop, ?_, hcontents, hcount⟩
  simp only [State.wrote, hop]

/-- Settles O21: the micro-steps of a read load the first `k` bytes of the contents, and the publish drops them. -/
theorem wholeReadTakesTheOldestBytes : Obligations.WholeReadTakesTheOldestBytes := by
  intro s m hop k
  have hk : k ≤ s.rxrb.count := Nat.min_le_right _ _
  have hcount : (s.hasRead k).rxrb.count = s.rxrb.count - k := ring_count_consume s.rxrb.buf s.rxrb k hk
  refine ⟨s.hasRead k, wholeRead_of_free m hop, ?_, ?_⟩
  · simp only [State.hasRead, State.rxContents, take_ringLoads _ _ _ _ hk, hop]
  · simp only [State.rxContents, hcount, drop_ringLoads _ _ _ _ hk]
    rfl

/-! ## The packed views -/

/-- Bit `j` of a flag's view at bit `i`. -/
theorem getLsbD_flagBit (b : Bool) {i : Nat} (j : Nat) (hi : i < 16) :
    (flagBit b i).getLsbD j = (b && decide (i = j)) := by
  cases b
  · simp [flagBit]
  · simp only [flagBit, if_true, Bool.true_and, BitVec.getLsbD_ofNat, Nat.testBit_two_pow]
    by_cases hj : i = j <;> simp [hj]
    omega

/-- A packed word is zero exactly when no flag is set. -/
theorem irq_iff_pack_ne_zero (f : Istat) : f.irq = true ↔ f.pack ≠ 0 := by
  constructor
  · intro hi hz
    have : f = Istat.empty := by
      rw [← istat_ofWord_pack f, hz]
      rfl
    rw [this] at hi
    cases hi
  · intro hz
    by_contra hi
    refine hz ?_
    simp only [Istat.irq, Bool.or_eq_true, not_or, Bool.not_eq_true] at hi
    simp [Istat.pack, flagBit, hi]

/-- The packed ISTAT word, bit by bit (spec/10_state.md R41). -/
theorem getLsbD_istat_pack (f : Istat) (j : Nat) :
    f.pack.getLsbD j = (f.ctEp0Rx && decide (0 = j) || f.ctEp0Tx && decide (1 = j) || f.ctEp1Rx && decide (2 = j)
      || f.ctEp1Tx && decide (3 = j) || f.setup && decide (4 = j) || f.kick && decide (5 = j)
      || f.reset && decide (8 = j) || f.susp && decide (9 = j) || f.wkup && decide (10 = j)) := by
  simp [Istat.pack, BitVec.getLsbD_or, getLsbD_flagBit]

/-- A byte operand placed at bit `i` of a register view. -/
theorem getLsbD_byte_shift (c : Byte) {i : Nat} (j : Nat) (hi : i ≤ 8) :
    (c.setWidth 16 <<< i).getLsbD j = (decide (i ≤ j) && c.getLsbD (j - i)) := by
  rw [BitVec.getLsbD_shiftLeft, BitVec.getLsbD_setWidth]
  by_cases hij : i ≤ j
  · by_cases hj : j < i + 8
    · simp [hij, show j < 16 by omega, show j - i < 16 by omega]
    · simp [BitVec.getLsbD_of_ge c (j - i) (by omega)]
  · simp [hij, Nat.lt_of_not_le hij]

/-- The packed endpoint register, bit by bit (spec/10_state.md R32). -/
theorem getLsbD_endpoint_pack (x : Endpoint) (j : Nat) :
    x.pack.getLsbD j = (x.rxStat.code.getLsbD j || decide (2 ≤ j) && x.txStat.code.getLsbD (j - 2)
      || x.rxToggle && decide (4 = j) || x.txToggle && decide (5 = j)
      || decide (6 ≤ j) && x.type.code.getLsbD (j - 6)
      || x.stalled && decide (7 = j) || x.configured && decide (8 = j)) := by
  have hrx := getLsbD_byte_shift x.rxStat.code (i := 0) j (by decide)
  simp only [BitVec.shiftLeft_zero, Nat.zero_le, decide_true, Bool.true_and, Nat.sub_zero] at hrx
  simp only [Endpoint.pack, BitVec.getLsbD_or, getLsbD_flagBit, hrx, getLsbD_byte_shift _ j (show 2 ≤ 8 by decide),
    getLsbD_byte_shift _ j (show 6 ≤ 8 by decide), Nat.reduceLT]

/-- A status code has two bits. -/
theorem getLsbD_statusCode (st : Status) {j : Nat} (hj : 2 ≤ j) : st.code.getLsbD j = false := by
  have hc : st.code.toNat < 2 ^ 2 := by cases st <;> decide
  rw [← BitVec.testBit_toNat]
  exact Nat.testBit_lt_two_pow (lt_of_lt_of_le hc (Nat.pow_le_pow_right (by decide) hj))

/-- A type code has one bit. -/
theorem getLsbD_typeCode (ty : EpType) (j : Nat) :
    ty.code.getLsbD j = (decide (ty = .bulk) && decide (j = 0)) := by
  cases ty
  · simp [EpType.code]
  · simp [EpType.code]

/-- Above the two bits of `rxStat`, the packed endpoint register holds one field at each place. -/
theorem getLsbD_endpoint_pack_above (x : Endpoint) {j : Nat} (hj : 2 ≤ j) :
    x.pack.getLsbD j = (x.txStat.code.getLsbD (j - 2) || x.rxToggle && decide (4 = j) || x.txToggle && decide (5 = j)
      || decide (x.type = .bulk) && decide (6 = j) || x.stalled && decide (7 = j)
      || x.configured && decide (8 = j)) := by
  have h6 : (decide (6 ≤ j) && (decide (x.type = .bulk) && decide (j - 6 = 0)))
      = (decide (x.type = .bulk) && decide (6 = j)) := by
    by_cases h : 6 = j
    · simp [← h]
    · have : ¬ (6 ≤ j ∧ j - 6 = 0) := by omega
      simp only [h, decide_false, Bool.and_false, Bool.and_eq_false_imp, decide_eq_true_eq, decide_eq_false_iff_not]
      tauto
  rw [getLsbD_endpoint_pack, getLsbD_statusCode _ hj, getLsbD_typeCode, h6]
  simp [hj]

/-- Above the two bits of `txStat`, only the flags and the type are left. -/
theorem getLsbD_endpoint_pack_flags (x : Endpoint) {j : Nat} (hj : 4 ≤ j) :
    x.pack.getLsbD j = (x.rxToggle && decide (4 = j) || x.txToggle && decide (5 = j)
      || decide (x.type = .bulk) && decide (6 = j) || x.stalled && decide (7 = j)
      || x.configured && decide (8 = j)) := by
  rw [getLsbD_endpoint_pack_above x (by omega), getLsbD_statusCode _ (show 2 ≤ j - 2 by omega)]
  simp

/-- Settles O6: each view read bit by bit. -/
theorem packedViewsHaveTheSpecsLayout : Obligations.PackedViewsHaveTheSpecsLayout := by
  refine ⟨fun s => ⟨rfl, rfl, fun e => ⟨rfl, rfl⟩⟩, fun f => ?_, fun x => ?_⟩
  · refine ⟨?_, ?_, ?_, ?_, ?_, ?_, ?_, ?_, ?_, ?_, ?_, fun i hi => ?_, irq_iff_pack_ne_zero f⟩
    case refine_12 =>
      have hhigh : ∀ {k : Nat}, k < 11 → k ≠ i := fun hk => by omega
      simp only [getLsbD_istat_pack, hhigh, Nat.reduceLT, decide_false, Bool.and_false, Bool.or_false]
    all_goals
      rw [getLsbD_istat_pack]
      simp
  · refine ⟨?_, ?_, ?_, ?_, ?_, ?_, ?_, fun i hi => ?_⟩
    · refine BitVec.eq_of_getLsbD_eq fun i hi => ?_
      rw [BitVec.getLsbD_extractLsb', BitVec.getLsbD_setWidth, Nat.zero_add, getLsbD_endpoint_pack]
      interval_cases i <;> simp
    · refine BitVec.eq_of_getLsbD_eq fun i hi => ?_
      rw [BitVec.getLsbD_extractLsb', BitVec.getLsbD_setWidth, getLsbD_endpoint_pack_above x (Nat.le_add_right 2 i)]
      interval_cases i <;> simp
    case refine_8 =>
      have hhigh : ∀ {k : Nat}, k < 9 → k ≠ i := fun hk => by omega
      simp only [getLsbD_endpoint_pack_flags x (show 4 ≤ i by omega), hhigh, Nat.reduceLT, decide_false,
        Bool.and_false, Bool.or_false]
    all_goals
      rw [getLsbD_endpoint_pack_flags x (by decide)]
      simp

/-! ## The reset state -/

/-- The regions of the default layout lie one after the other. -/
theorem reset_tableOk : State.reset.tableOk := by
  refine ⟨rfl, rfl, by unfold entryOk; decide, by unfold entryOk; decide, fun a => ?_⟩
  simp only [inTxRegion, inRxRegion, State.reset, BdtEntry.ofLayout, Params.default, BitVec.reduceToNat]
  omega

theorem reset_invariant : State.reset.Invariant where
  paramsOk := by decide
  running := rfl
  notFatal := rfl
  table := reset_tableOk
  rxBound := by decide
  txBound := by decide
  idlePending := fun _ => rfl
  poweredSilent := fun _ => ⟨⟨rfl, rfl, rfl, rfl⟩, rfl, rfl, rfl, rfl⟩
  ep1Configured := nofun
  busyConfigured := nofun
  setupQualifies := fun _ => rfl
  silent0 := fun _ => ⟨rfl, rfl, rfl, rfl⟩
  silent1 := fun _ => ⟨rfl, rfl, rfl, rfl⟩
  poweredUnconfigured := fun _ => ⟨rfl, rfl⟩
  resetUnconfigured := nofun
  flags0 := by simp [State.reset, Istat.empty]
  flags1 := by simp [State.reset, Istat.empty]
  pending := .inl rfl
  transfer := nofun
  bridge := nofun
  lastLen := Nat.zero_le _
  snapshot := nofun

/-- Settles O10: `INIT` is evaluated on the default layout, whose two entries pass R132. -/
theorem resetIsInitsResultAndMeetsTheInvariant : Obligations.ResetIsInitsResultAndMeetsTheInvariant := by
  refine ⟨?_, ?_, reset_invariant⟩
  · rfl
  · obtain ⟨hpma, hrx, htx⟩ := reset_memories_wf
    simp [State.memoriesCanonical, hpma, hrx, htx]

end Sys2Proof.Machine
end

section
/-! Who writes the ring indices, the device state, the line coding and the parameters (O24, O59, O60). -/

namespace Sys2Proof.Machine

/-! ## What most operations keep: the parameters, the device state, the line coding and both rings -/

/-- `t` has the parameters, the device state, the line coding and the rings of `s`. -/
structure SameDevice (s t : State) : Prop where
  params : t.params = s.params
  devState : t.devState = s.devState
  lineCoding : t.lineCoding = s.lineCoding
  rxrb : t.rxrb = s.rxrb
  txrb : t.txrb = s.txrb

theorem SameDevice.refl (s : State) : SameDevice s s := ⟨rfl, rfl, rfl, rfl, rfl⟩

theorem SameDevice.trans {s t u : State} (h : SameDevice s t) (g : SameDevice t u) : SameDevice s u where
  params := g.params.trans h.params
  devState := g.devState.trans h.devState
  lineCoding := g.lineCoding.trans h.lineCoding
  rxrb := g.rxrb.trans h.rxrb
  txrb := g.txrb.trans h.txrb

/-- The same move of the device state on both sides. -/
theorem SameDevice.setDevState {s t : State} (h : SameDevice s t) (d : DevState) :
    SameDevice { s with devState := d } { t with devState := d } :=
  ⟨h.params, rfl, h.lineCoding, h.rxrb, h.txrb⟩

section Device
variable {s t : State}

theorem setEp_sameDevice (s : State) (e : Ep) (x : Endpoint) : SameDevice s (s.setEp e x) := by
  cases e <;> exact ⟨rfl, rfl, rfl, rfl, rfl⟩

theorem setBdt_sameDevice (s : State) (e : Ep) (x : BdtEntry) : SameDevice s (s.setBdt e x) := by
  cases e <;> exact ⟨rfl, rfl, rfl, rfl, rfl⟩

theorem setStatus_sameDevice {e : Ep} {d : Dir} {st : Status} (ht : setStatus e d st s = .next t) :
    SameDevice s t := by
  obtain ⟨-, rfl⟩ := setStatus_eq_next.1 ht
  exact setEp_sameDevice _ _ _

theorem toggleData_sameDevice {e : Ep} {d : Dir} (ht : toggleData e d s = .next t) : SameDevice s t := by
  obtain ⟨-, rfl⟩ := toggleData_eq_next.1 ht
  exact setEp_sameDevice _ _ _

theorem setTxCount_sameDevice {e : Ep} {n : Half} (ht : setTxCount e n s = .next t) : SameDevice s t := by
  obtain ⟨-, -, rfl⟩ := setTxCount_eq_next.1 ht
  exact setBdt_sameDevice _ _ _

theorem pmaWrite_sameDevice {a : Nat} {bs : List Byte} (ht : pmaWrite a bs s = .next t) : SameDevice s t := by
  obtain ⟨-, rfl⟩ := pmaWrite_eq_next.1 ht
  exact ⟨rfl, rfl, rfl, rfl, rfl⟩

theorem stall0_sameDevice (ht : stall0 s = .next t) : SameDevice s t := by
  obtain ⟨-, rfl⟩ := stall0_eq_next.1 ht
  exact ⟨rfl, rfl, rfl, rfl, rfl⟩

theorem setTransfer_sameDevice (s : State) (c : Option ControlTransfer) (p : Option (BitVec 7)) :
    SameDevice s { s with ct := c, pendingAddr := p } := ⟨rfl, rfl, rfl, rfl, rfl⟩

/-! ## The work of endpoint 0 -/

theorem startStatusIn_sameDevice {c : ControlTransfer} (ht : startStatusIn c s = .next t) : SameDevice s t := by
  obtain ⟨u, h1, h2⟩ := andThen_eq_next.1 ht
  exact (setTransfer_sameDevice s _ _).trans ((setTxCount_sameDevice h1).trans (setStatus_sameDevice h2))

theorem sendChunk_sameDevice {c : ControlTransfer} (ht : sendChunk c s = .next t) : SameDevice s t := by
  obtain ⟨u, h1, h2⟩ := andThen_eq_next.1 ht
  obtain ⟨v, h3, h4⟩ := andThen_eq_next.1 h2
  exact (pmaWrite_sameDevice h1).trans ((setTransfer_sameDevice u _ _).trans
    ((setTxCount_sameDevice h3).trans (setStatus_sameDevice h4)))

theorem startDataIn_sameDevice {resp : List Byte} {c : ControlTransfer} (ht : startDataIn resp c s = .next t) :
    SameDevice s t := by
  unfold startDataIn at ht
  split at ht
  · exact startStatusIn_sameDevice ht
  · obtain ⟨u, h1, h2⟩ := andThen_eq_next.1 ht
    exact (sendChunk_sameDevice h1).trans (setStatus_sameDevice h2)

/-- The device after SET_CONFIGURATION took it from Addressed, or left it in Configured. -/
def EntersConfigured (s t : State) : Prop :=
  (s.devState = .addressed ∨ s.devState = .configured) ∧ SameDevice { s with devState := .configured } t

theorem execReqSetAddress_sameDevice {v i l : Half} (ht : execReqSetAddress v i l s = .next t) : SameDevice s t := by
  unfold execReqSetAddress at ht
  split at ht
  · exact stall0_sameDevice ht
  · exact (setTransfer_sameDevice s s.ct _).trans (startStatusIn_sameDevice ht)

theorem execReqGetDescriptor_sameDevice {v i l : Half} (ht : execReqGetDescriptor v i l s = .next t) :
    SameDevice s t := by
  unfold execReqGetDescriptor at ht
  split at ht
  · exact stall0_sameDevice ht
  · exact startDataIn_sameDevice ht

theorem execReqSetConfiguration_device {v i l : Half} (ht : execReqSetConfiguration v i l s = .next t) :
    SameDevice s t ∨ EntersConfigured s t := by
  unfold execReqSetConfiguration at ht
  split at ht
  · exact .inl (stall0_sameDevice ht)
  · rename_i hg
    have hd : s.devState = .addressed ∨ s.devState = .configured := by tauto
    refine .inr ⟨hd, SameDevice.trans ?_ (startStatusIn_sameDevice ht)⟩
    exact ⟨rfl, rfl, rfl, rfl, rfl⟩

theorem execReqSetLineCoding_sameDevice {v i l : Half} (ht : execReqSetLineCoding v i l s = .next t) :
    SameDevice s t := by
  unfold execReqSetLineCoding at ht
  split at ht
  · exact stall0_sameDevice ht
  · exact (setTransfer_sameDevice s _ _).trans (setStatus_sameDevice ht)

theorem execReqSetControlLineState_sameDevice {v i l : Half} (ht : execReqSetControlLineState v i l s = .next t) :
    SameDevice s t := by
  unfold execReqSetControlLineState at ht
  split at ht
  · exact stall0_sameDevice ht
  · exact startStatusIn_sameDevice ht

/-- Of the requests only SET_CONFIGURATION moves the device. -/
theorem performRequest_device {rt rq : Byte} {v i l : Half} (ht : performRequest rt rq v i l s = .next t) :
    SameDevice s t ∨ EntersConfigured s t := by
  unfold performRequest at ht
  cases hk : selectRequest rt rq <;> simp only [hk] at ht
  case getStatus | getLineCoding => exact .inl (startDataIn_sameDevice ht)
  case setAddress => exact .inl (execReqSetAddress_sameDevice ht)
  case getDescriptor => exact .inl (execReqGetDescriptor_sameDevice ht)
  case setConfiguration => exact execReqSetConfiguration_device ht
  case setLineCoding => exact .inl (execReqSetLineCoding_sameDevice ht)
  case setControlLineState => exact .inl (execReqSetControlLineState_sameDevice ht)
  case unsupported => exact .inl (stall0_sameDevice ht)

theorem execCtrlSetup_device (ht : execCtrlSetup s = .next t) : SameDevice s t ∨ EntersConfigured s t := by
  obtain ⟨u, h1, h2⟩ := andThen_eq_next.1 ht
  obtain ⟨-, rfl⟩ := abortTransfer_eq_next h1
  have ha : SameDevice s s.aborted := ⟨rfl, rfl, rfl, rfl, rfl⟩
  obtain ⟨n, -, h3⟩ := withValue_eq_next.1 h2
  split at h3
  · exact .inl (ha.trans (stall0_sameDevice h3))
  · obtain ⟨p, -, h4⟩ := withValue_eq_next.1 h3
    obtain hs | ⟨hd, hc⟩ := performRequest_device h4
    · exact .inl (ha.trans hs)
    · exact .inr ⟨hd, (ha.setDevState _).trans hc⟩

theorem advanceDataIn_sameDevice {c : ControlTransfer} (ht : advanceDataIn c s = .next t) : SameDevice s t := by
  unfold advanceDataIn at ht
  dsimp only at ht
  split at ht
  · exact sendChunk_sameDevice ht
  · split at ht
    · obtain ⟨u, h1, h2⟩ := andThen_eq_next.1 ht
      exact (setTransfer_sameDevice s _ _).trans ((setTxCount_sameDevice h1).trans (setStatus_sameDevice h2))
    · cases ht
      exact setTransfer_sameDevice s _ _

/-- A completed status packet moves the device only with an address staged. -/
theorem finish_applyStagedAddress_device (s : State) :
    SameDevice s (finish (applyStagedAddress s))
      ∨ (s.pendingAddr.isSome = true
        ∧ SameDevice { s with devState := .addressed } (finish (applyStagedAddress s))) := by
  unfold applyStagedAddress finish
  cases hp : s.pendingAddr with
  | none => exact .inl ⟨rfl, rfl, rfl, rfl, rfl⟩
  | some a =>
    by_cases ha : a = 0
    · exact .inl ⟨rfl, if_neg (not_not.2 ha), rfl, rfl, rfl⟩
    · exact .inr ⟨rfl, rfl, if_pos ha, rfl, rfl, rfl⟩

theorem execCtrlInDone_device (ht : execCtrlInDone s = .next t) :
    SameDevice s t ∨ (s.pendingAddr.isSome = true ∧ SameDevice { s with devState := .addressed } t) := by
  obtain ⟨u, h1, h2⟩ := andThen_eq_next.1 ht
  have hu := toggleData_sameDevice h1
  obtain ⟨-, rfl⟩ := toggleData_eq_next.1 h1
  split at h2
  · cases h2
    exact .inl hu
  · split at h2
    · exact .inl (hu.trans (advanceDataIn_sameDevice h2))
    · split at h2
      · cases h2
        obtain hs | ⟨hp, hs⟩ := finish_applyStagedAddress_device (s.setEp .ep0 ((s.ep .ep0).flip .tx))
        · exact .inl (hu.trans hs)
        · exact .inr ⟨hp, (hu.setDevState _).trans hs⟩
      · cases h2
        exact .inl hu

/-- A payload of 7 bytes has arrived in the data stage of a host-to-device transfer. -/
def PayloadArrived (s : State) : Prop :=
  s.bdt0.rxCount = 7 ∧ ∃ c, s.ct = some c ∧ c.phase = .dataStage ∧ c.stage = .dataOut

/-- `CTRL.OUT_DONE` changes the line coding only on a payload of 7 bytes (spec/42_control.md R181). -/
theorem execCtrlOutDone_device (ht : execCtrlOutDone s = .next t) :
    SameDevice s t ∨ (PayloadArrived s ∧ ∃ l, SameDevice { s with lineCoding := l } t) := by
  obtain ⟨u, h1, h2⟩ := andThen_eq_next.1 ht
  have hu := toggleData_sameDevice h1
  obtain ⟨-, rfl⟩ := toggleData_eq_next.1 h1
  split at h2
  · cases h2
    exact .inl hu
  · rename_i c hc
    split at h2
    · rename_i hd
      obtain ⟨n, hn, h3⟩ := withValue_eq_next.1 h2
      split at h3
      · exact .inl (hu.trans (stall0_sameDevice h3))
      · rename_i h7
        obtain ⟨q, -, h4⟩ := withValue_eq_next.1 h3
        have h7 : s.bdt0.rxCount = 7 := (readRxCount_eq_ok.1 hn).2.symm.trans (not_not.1 h7)
        refine .inr ⟨⟨h7, c, hc, hd⟩, lineCodingOf q, SameDevice.trans ?_ (startStatusIn_sameDevice h4)⟩
        exact ⟨rfl, rfl, rfl, rfl, rfl⟩
    · split at h2
      · obtain ⟨v, h3, h4⟩ := andThen_eq_next.1 h2
        cases h4
        exact .inl (hu.trans ((setStatus_sameDevice h3).trans (setTransfer_sameDevice v none _)))
      · cases h2
        exact .inl hu

/-! ## The work of endpoint 1 -/

theorem recordOverrun_sameDevice (n k : Nat) (s : State) : SameDevice s (recordOverrun n k s) := by
  unfold recordOverrun
  split <;> exact ⟨rfl, rfl, rfl, rfl, rfl⟩

/-- The OUT handler of endpoint 1 leaves the TX ring alone. -/
theorem execBulkOutDone_txrb (ht : execBulkOutDone s = .next t) : t.txrb = s.txrb := by
  unfold execBulkOutDone at ht
  split at ht
  · cases ht
    rfl
  · obtain ⟨n, -, h1⟩ := withValue_eq_next.1 ht
    obtain ⟨d, -, h2⟩ := withValue_eq_next.1 h1
    obtain ⟨u, h3, h4⟩ := andThen_eq_next.1 h2
    exact ((recordOverrun_sameDevice _ _ _).trans
      ((toggleData_sameDevice h3).trans (setStatus_sameDevice h4))).txrb

theorem armIn_sameDevice {n : Nat} (ht : armIn n s = .next t) : SameDevice s t := by
  obtain ⟨u, h1, h2⟩ := andThen_eq_next.1 ht
  obtain ⟨v, h3, h4⟩ := andThen_eq_next.1 h2
  cases h4
  exact (setTxCount_sameDevice h1).trans ((setStatus_sameDevice h3).trans ⟨rfl, rfl, rfl, rfl, rfl⟩)

/-- Starting an IN leaves the RX ring alone. -/
theorem tryStartIn_rxrb {after : Bool} (ht : tryStartIn after s = .next t) : t.rxrb = s.rxrb := by
  unfold tryStartIn at ht
  dsimp only at ht
  split at ht
  · obtain ⟨u, h1, h2⟩ := andThen_eq_next.1 ht
    exact (armIn_sameDevice h2).rxrb.trans (pmaWrite_sameDevice h1).rxrb
  · split at ht
    · exact (armIn_sameDevice ht).rxrb
    · cases ht
      rfl

theorem execBulkInDone_rxrb (ht : execBulkInDone s = .next t) : t.rxrb = s.rxrb := by
  unfold execBulkInDone at ht
  split at ht
  · cases ht
    rfl
  · obtain ⟨u, h1, h2⟩ := andThen_eq_next.1 ht
    exact (tryStartIn_rxrb h2).trans (toggleData_sameDevice h1).rxrb

theorem execBulkKick_rxrb (ht : execBulkKick s = .next t) : t.rxrb = s.rxrb := by
  unfold execBulkKick at ht
  split at ht
  · exact tryStartIn_rxrb ht
  · cases ht
    rfl

/-! ## The link -/

theorem respond_sameDevice (r : BusResponse) (s : State) : SameDevice s (respond r s) := ⟨rfl, rfl, rfl, rfl, rfl⟩

theorem linkStep_sameDevice {body : State → Result} (hb : ∀ u, body u = .next t → SameDevice u t)
    (ht : linkStep body s = .next t) : SameDevice s t := by
  unfold linkStep at ht
  split at ht
  · cases ht
    exact respond_sameDevice _ s
  · exact SameDevice.trans (t := applyRequests s) ⟨rfl, rfl, rfl, rfl, rfl⟩ (hb _ ht)

theorem answerByStatus_sameDevice {st : Status} {perform : State → Result}
    (hp : perform s = .next t → SameDevice s t) (ht : answerByStatus st perform s = .next t) : SameDevice s t := by
  cases st
  case valid => exact hp ht
  all_goals
    cases ht
    exact respond_sameDevice _ s

theorem acceptSetup_sameDevice {data : List Byte} (ht : acceptSetup data s = .next t) : SameDevice s t := by
  obtain ⟨u, h1, h2⟩ := andThen_eq_next.1 ht
  cases h2
  exact (pmaWrite_sameDevice h1).trans ⟨rfl, rfl, rfl, rfl, rfl⟩

theorem performOut_sameDevice {e : Ep} {tog : Bool} {data : List Byte} (ht : performOut e tog data s = .next t) :
    SameDevice s t := by
  unfold performOut at ht
  split at ht
  · cases ht
    exact respond_sameDevice _ s
  · split at ht
    · cases ht
      exact respond_sameDevice _ s
    · obtain ⟨u, h1, h2⟩ := andThen_eq_next.1 ht
      cases h2
      refine (pmaWrite_sameDevice h1).trans (SameDevice.trans ?_ (respond_sameDevice _ _))
      exact ((setBdt_sameDevice u e _).trans (setEp_sameDevice _ e _)).trans ⟨rfl, rfl, rfl, rfl, rfl⟩

theorem performIn_sameDevice {e : Ep} {hostAck : Bool} (ht : performIn e hostAck s = .next t) : SameDevice s t := by
  obtain ⟨d, -, h1⟩ := withValue_eq_next.1 ht
  dsimp only at h1
  split at h1
  · cases h1
    exact (respond_sameDevice _ s).trans ((setEp_sameDevice _ e _).trans ⟨rfl, rfl, rfl, rfl, rfl⟩)
  · cases h1
    exact respond_sameDevice _ s

theorem linkOp_sameDevice {i : Instr} (hi : isLinkOp i = true) (ht : exec i s = .next t) : SameDevice s t := by
  cases i
  case busSetup =>
    simp only [exec] at ht
    refine linkStep_sameDevice (fun u hu => ?_) ht
    split at hu
    · split at hu
      · cases hu
        exact respond_sameDevice _ u
      · exact acceptSetup_sameDevice hu
    · cases hu
      exact respond_sameDevice _ u
    · cases hu
      exact respond_sameDevice _ u
  case busOut =>
    simp only [exec] at ht
    refine linkStep_sameDevice (fun u hu => ?_) ht
    split at hu
    · exact answerByStatus_sameDevice performOut_sameDevice hu
    · cases hu
      exact respond_sameDevice _ u
  case busIn =>
    simp only [exec] at ht
    refine linkStep_sameDevice (fun u hu => ?_) ht
    split at hu
    · exact answerByStatus_sameDevice performIn_sameDevice hu
    · cases hu
      exact respond_sameDevice _ u
  case busReset | busSuspend | busWakeup =>
    simp only [exec] at ht
    refine linkStep_sameDevice (fun u hu => ?_) ht
    cases hu
    exact ⟨rfl, rfl, rfl, rfl, rfl⟩
  all_goals cases hi

/-! ## The application and the commands -/

theorem bridgeOp_sameDevice {i : Instr} (hi : isBridgeOp i = true) (ht : exec i s = .next t) : SameDevice s t := by
  cases i
  case brWrite =>
    obtain ⟨-, rfl⟩ := startBridge_eq_next.1 (show execBrWrite _ s = .next t from ht)
    exact ⟨rfl, rfl, rfl, rfl, rfl⟩
  case brRead =>
    obtain ⟨-, rfl⟩ := startBridge_eq_next.1 (show execBrRead _ s = .next t from ht)
    exact ⟨rfl, rfl, rfl, rfl, rfl⟩
  case brKick =>
    obtain ⟨-, rfl⟩ := startBridge_eq_next.1 (show execBrKick s = .next t from ht)
    exact ⟨rfl, rfl, rfl, rfl, rfl⟩
  case brAvail | brSpace | brOverrun =>
    obtain ⟨r, rfl⟩ := query_eq_next (by simp) ht
    exact ⟨rfl, rfl, rfl, rfl, rfl⟩
  all_goals cases hi

theorem configureTable_sameDevice (e : Ep) (tx rx m : Half) (s : State) :
    SameDevice s (configureTable e tx rx m s) := by
  unfold configureTable
  split
  · cases e <;> exact ⟨rfl, rfl, rfl, rfl, rfl⟩
  · exact ⟨rfl, rfl, rfl, rfl, rfl⟩

theorem execBdtConfigure_sameDevice {e : Ep} {tx rx m : Half} (ht : execBdtConfigure e tx rx m s = .next t) :
    SameDevice s t := by
  unfold execBdtConfigure at ht
  split at ht
  · cases ht
    exact (configureTable_sameDevice e tx rx m s).trans ⟨rfl, rfl, rfl, rfl, rfl⟩
  · cases ht

theorem execBdtReadRxCount_sameDevice {e : Ep} (ht : execBdtReadRxCount e s = .next t) : SameDevice s t := by
  obtain ⟨n, -, h1⟩ := withValue_eq_next.1 ht
  cases h1
  exact ⟨rfl, rfl, rfl, rfl, rfl⟩

/-- `INIT` leaves the power-on values of these fields, whatever the layout. -/
theorem execInit_sameDevice (ht : execInit s = .next t) : SameDevice (powerOnFields s) t := by
  unfold execInit at ht
  split at ht
  · dsimp only at ht
    split at ht
    · cases ht
      exact (configureTable_sameDevice _ _ _ _ _).trans ⟨rfl, rfl, rfl, rfl, rfl⟩
    · split at ht <;> cases ht
      all_goals
        refine (configureTable_sameDevice _ _ _ _ _).trans
          ((configureTable_sameDevice .ep1 _ _ _ _).trans ⟨rfl, rfl, rfl, rfl, rfl⟩)
  · cases ht

end Device

/-! ## Which operation may move what -/

/-- What operation `i`, which is not `INIT`, may do to the parameters, the ring indices, the device state and the line
coding (spec/10_state.md R20, R23, R39, R45). -/
structure Moves (i : Instr) (s t : State) : Prop where
  params : t.params = s.params
  rxHead : t.rxrb.head ≠ s.rxrb.head → i = .bulkOutDone ∨ i = .evEp1Out ∨ ∃ w, i = .dispatch w
  rxTail : t.rxrb.tail = s.rxrb.tail
  txHead : t.txrb.head = s.txrb.head
  txTail : t.txrb.tail ≠ s.txrb.tail →
    i = .bulkInDone ∨ i = .bulkKick ∨ i = .evEp1In ∨ i = .evKick ∨ ∃ w, i = .dispatch w
  devState : devStateMove i s t
  lineCoding : t.lineCoding ≠ s.lineCoding →
    (i = .ctrlOutDone ∨ i = .evEp0Out ∨ ∃ w, i = .dispatch w) ∧ PayloadArrived s

section Moves
variable {i : Instr} {s t u : State}

/-- An operation that may move the device state to `d` and keeps the rest. -/
theorem Moves.of_devState {d : DevState} (h : SameDevice { s with devState := d } t)
    (hd : devStateMove i s { s with devState := d }) : Moves i s t where
  params := h.params
  rxHead := fun hn => absurd (congrArg Ring.head h.rxrb) hn
  rxTail := congrArg Ring.tail h.rxrb
  txHead := congrArg Ring.head h.txrb
  txTail := fun hn => absurd (congrArg Ring.tail h.txrb) hn
  devState := by
    unfold devStateMove at hd ⊢
    rwa [h.devState]
  lineCoding := fun hn => absurd h.lineCoding hn

theorem Moves.of_same (h : SameDevice s t) : Moves i s t := .of_devState h (.inl rfl)

/-- What follows an operation and keeps these fields adds nothing. -/
theorem Moves.trans_same (m : Moves i s u) (h : SameDevice u t) : Moves i s t where
  params := h.params.trans m.params
  rxHead := by rw [h.rxrb]; exact m.rxHead
  rxTail := by rw [h.rxrb]; exact m.rxTail
  txHead := by rw [h.txrb]; exact m.txHead
  txTail := by rw [h.txrb]; exact m.txTail
  devState := by
    have := m.devState
    unfold devStateMove at this ⊢
    rwa [h.devState]
  lineCoding := by rw [h.lineCoding]; exact m.lineCoding

theorem Moves.of_setup (hi : mayConfigure i = true) (h : SameDevice s t ∨ EntersConfigured s t) : Moves i s t := by
  obtain h | ⟨hd, h⟩ := h
  · exact .of_same h
  · refine .of_devState h ?_
    obtain hd | hd := hd
    · exact .inr (.inr (.inr (.inr (.inl ⟨rfl, hd, hi⟩))))
    · exact .inl hd.symm

theorem Moves.of_ctrlInDone (hi : i = .ctrlInDone ∨ i = .evEp0In) (h : execCtrlInDone s = .next t) : Moves i s t := by
  obtain h | ⟨hp, h⟩ := execCtrlInDone_device h
  · exact .of_same h
  · refine .of_devState h (.inr (.inr (.inr (.inl ⟨rfl, hp, ?_⟩))))
    tauto

theorem Moves.of_ctrlOutDone (hi : i = .ctrlOutDone ∨ i = .evEp0Out) (h : execCtrlOutDone s = .next t) :
    Moves i s t := by
  obtain h | ⟨hp, l, h⟩ := execCtrlOutDone_device h
  · exact .of_same h
  · have m : Moves i { s with lineCoding := l } t := .of_same h
    exact { m with lineCoding := fun _ => ⟨by tauto, hp⟩ }

/-- The OUT handler of endpoint 1 moves `RXRB.head` alone. -/
theorem Moves.of_bulkOutDone (hi : i = .bulkOutDone ∨ i = .evEp1Out) (h : execBulkOutDone s = .next t) :
    Moves i s t := by
  have f := bulkOutDone_frame h
  have htx := execBulkOutDone_txrb h
  exact {
    params := f.params
    rxHead := fun _ => by tauto
    rxTail := f.rxTail
    txHead := f.txHead
    txTail := fun hn => absurd (congrArg Ring.tail htx) hn
    devState := .inl f.devState
    lineCoding := fun hn => absurd f.lineCoding hn }

/-- The IN and KICK handlers of endpoint 1 move `TXRB.tail` alone. -/
theorem Moves.of_bulkIn (hi : i = .bulkInDone ∨ i = .bulkKick ∨ i = .evEp1In ∨ i = .evKick) (f : OutsideEp1 s t)
    (hrx : t.rxrb = s.rxrb) : Moves i s t where
  params := f.params
  rxHead := fun hn => absurd (congrArg Ring.head hrx) hn
  rxTail := f.rxTail
  txHead := f.txHead
  txTail := fun _ => by tauto
  devState := .inl f.devState
  lineCoding := fun hn => absurd f.lineCoding hn

theorem Moves.of_handleEvent {e : Event} {body : State → Result} (hb : ∀ u, body s = .next u → Moves i s u)
    (h : handleEvent e body s = .next t) : Moves i s t := by
  cases hf : s.fatal with
  | true =>
    rw [handleEvent_fatal hf] at h
    cases h
    exact .of_same (.refl s)
  | false =>
    obtain ⟨u, hu, rfl⟩ := (handleEvent_eq_next hf).1 h
    exact (hb u hu).trans_same ⟨rfl, rfl, rfl, rfl, rfl⟩

/-- The RESET, SUSPEND and WAKEUP handlers move the device state as R23 names. -/
theorem Moves.of_resetBody (h : resetBody s = .next t) : Moves .evReset s t := by
  cases h
  exact .of_devState (d := .default) ⟨rfl, rfl, rfl, rfl, rfl⟩ (.inr (.inr (.inl ⟨rfl, .inl rfl⟩)))

theorem Moves.of_suspendBody (h : suspendBody s = .next t) : Moves .evSuspend s t := by
  cases h
  split
  · rename_i hd
    exact .of_devState (d := .suspended) ⟨rfl, rfl, rfl, rfl, rfl⟩
      (.inr (.inr (.inr (.inr (.inr (.inl ⟨rfl, hd, .inl rfl⟩))))))
  · exact .of_same (.refl s)

theorem Moves.of_wakeupBody (h : wakeupBody s = .next t) : Moves .evWakeup s t := by
  cases h
  split
  · rename_i hd
    exact .of_devState (d := .configured) ⟨rfl, rfl, rfl, rfl, rfl⟩
      (.inr (.inr (.inr (.inr (.inr (.inr ⟨rfl, hd, .inl rfl⟩))))))
  · exact .of_same (.refl s)

/-- Every operation but `INIT` and `DISPATCH`. -/
theorem exec_moves_of_single (hn : i ≠ .init) (hd : ∀ w, i ≠ .dispatch w) (h : exec i s = .next t) :
    Moves i s t := by
  cases i
  case init => exact absurd rfl hn
  case dispatch w => exact absurd rfl (hd w)
  case bdtConfigure => exact .of_same (execBdtConfigure_sameDevice h)
  case bdtSetTxCount => exact .of_same (setTxCount_sameDevice h)
  case bdtReadRxCount => exact .of_same (execBdtReadRxCount_sameDevice h)
  case epConfigure =>
    cases h
    exact .of_same (setEp_sameDevice _ _ _)
  case epSetStatus => exact .of_same (setStatus_sameDevice h)
  case epToggle => exact .of_same (toggleData_sameDevice h)
  case brWrite | brRead | brAvail | brSpace | brOverrun | brKick => exact .of_same (bridgeOp_sameDevice rfl h)
  case busSetup | busOut | busIn | busReset | busSuspend | busWakeup => exact .of_same (linkOp_sameDevice rfl h)
  case evReset => exact .of_handleEvent (fun _ => .of_resetBody) h
  case evSuspend => exact .of_handleEvent (fun _ => .of_suspendBody) h
  case evWakeup => exact .of_handleEvent (fun _ => .of_wakeupBody) h
  case evEp0In => exact .of_handleEvent (fun _ => .of_ctrlInDone (.inr rfl)) h
  case evEp0Setup => exact .of_handleEvent (fun _ hu => .of_setup rfl (execCtrlSetup_device hu)) h
  case evEp0Out => exact .of_handleEvent (fun _ => .of_ctrlOutDone (.inr rfl)) h
  case evEp1Out => exact .of_handleEvent (fun _ => .of_bulkOutDone (.inr rfl)) h
  case evEp1In =>
    exact .of_handleEvent (fun _ hu => .of_bulkIn (by simp) (bulkInDone_frame hu) (execBulkInDone_rxrb hu)) h
  case evKick =>
    exact .of_handleEvent (fun _ hu => .of_bulkIn (by simp) (bulkKick_frame hu) (execBulkKick_rxrb hu)) h
  case reqGetStatus | reqGetLineCoding => exact .of_same (startDataIn_sameDevice h)
  case reqSetAddress => exact .of_same (execReqSetAddress_sameDevice h)
  case reqGetDescriptor => exact .of_same (execReqGetDescriptor_sameDevice h)
  case reqSetConfiguration => exact .of_setup rfl (execReqSetConfiguration_device h)
  case reqSetLineCoding => exact .of_same (execReqSetLineCoding_sameDevice h)
  case reqSetControlLineState => exact .of_same (execReqSetControlLineState_sameDevice h)
  case reqUnsupported => exact .of_same (stall0_sameDevice h)
  case ctrlSetup => exact .of_setup rfl (execCtrlSetup_device h)
  case ctrlInDone => exact .of_ctrlInDone (.inl rfl) h
  case ctrlOutDone => exact .of_ctrlOutDone (.inl rfl) h
  case bulkOutDone => exact .of_bulkOutDone (.inl rfl) h
  case bulkInDone => exact .of_bulkIn (by simp) (bulkInDone_frame h) (execBulkInDone_rxrb h)
  case bulkKick => exact .of_bulkIn (by simp) (bulkKick_frame h) (execBulkKick_rxrb h)

/-- A handler run by the dispatcher is the handler's own operation. -/
theorem runHandler_eq_exec (e : Event) (s : State) : runHandler e s = exec (handlerOf s.istat.setup e) s := by
  cases e
  case ctEp0Rx => cases hs : s.istat.setup <;> simp [runHandler, handlerOf, hs, exec]
  all_goals rfl

/-- What a handler may do, a `DISPATCH` whose event it handles may do. -/
theorem Moves.dispatch (w : Half) {j : Instr} (hj : j ≠ .init) (m : Moves j s t) : Moves (.dispatch w) s t where
  params := m.params
  rxHead := fun _ => .inr (.inr ⟨w, rfl⟩)
  rxTail := m.rxTail
  txHead := m.txHead
  txTail := fun _ => .inr (.inr (.inr (.inr ⟨w, rfl⟩)))
  devState := by
    obtain h | ⟨-, h⟩ | ⟨h, -⟩ | ⟨h, hp, -⟩ | ⟨h, hd, -⟩ | ⟨h, hd, -⟩ | ⟨h, hd, -⟩ := m.devState
    · exact .inl h
    · exact absurd h hj
    · exact .inr (.inr (.inl ⟨h, .inr ⟨w, rfl⟩⟩))
    · exact .inr (.inr (.inr (.inl ⟨h, hp, .inr (.inr ⟨w, rfl⟩)⟩)))
    · exact .inr (.inr (.inr (.inr (.inl ⟨h, hd, rfl⟩))))
    · exact .inr (.inr (.inr (.inr (.inr (.inl ⟨h, hd, .inr ⟨w, rfl⟩⟩)))))
    · exact .inr (.inr (.inr (.inr (.inr (.inr ⟨h, hd, .inr ⟨w, rfl⟩⟩)))))
  lineCoding := fun hn => ⟨.inr (.inr ⟨w, rfl⟩), (m.lineCoding hn).2⟩

theorem handlerOf_ne_init (b : Bool) (e : Event) : handlerOf b e ≠ .init := by
  cases e <;> cases b <;> nofun

theorem handlerOf_ne_dispatch (b : Bool) (e : Event) (w : Half) : handlerOf b e ≠ .dispatch w := by
  cases e <;> cases b <;> nofun

theorem Moves.of_dispatch {w : Half} (h : execDispatch w s = .next t) : Moves (.dispatch w) s t := by
  obtain rfl | ⟨-, -, -, rfl⟩ | rfl | ⟨f, e, -, rfl | ⟨u, -, hu, rfl⟩⟩ := execDispatch_eq_next h
  · exact .of_same (.refl _)
  · exact .of_same ⟨rfl, rfl, rfl, rfl, rfl⟩
  · exact .of_same ⟨rfl, rfl, rfl, rfl, rfl⟩
  · exact .of_same ⟨rfl, rfl, rfl, rfl, rfl⟩
  · rw [runHandler_eq_exec] at hu
    have m := exec_moves_of_single (handlerOf_ne_init _ e) (handlerOf_ne_dispatch _ e) hu
    exact (m.dispatch w (handlerOf_ne_init _ e)).trans_same ⟨rfl, rfl, rfl, rfl, rfl⟩

/-- Every operation but `INIT`. -/
theorem exec_moves (hn : i ≠ .init) (h : exec i s = .next t) : Moves i s t := by
  by_cases hd : ∃ w, i = .dispatch w
  · obtain ⟨w, rfl⟩ := hd
    exact .of_dispatch h
  · exact exec_moves_of_single hn (not_exists.1 hd) h

theorem exec_params (h : exec i s = .next t) : t.params = s.params := by
  by_cases hi : i = .init
  · subst hi
    exact (execInit_sameDevice h).params
  · exact (exec_moves hi h).params

/-- A micro-step moves only the index its own operation publishes. -/
theorem appMicroStep_indices (h : appMicroStep s = .next t) :
    t.rxrb.head = s.rxrb.head ∧ t.txrb.tail = s.txrb.tail
    ∧ (t.rxrb.tail ≠ s.rxrb.tail → ∃ op, s.appOp = some op ∧ op.kind = .read)
    ∧ (t.txrb.head ≠ s.txrb.head → ∃ op, s.appOp = some op ∧ op.kind = .write) := by
  obtain ⟨-, rfl⟩ | ⟨op, ho, hk, ⟨b, -, rfl⟩ | ⟨-, rfl⟩⟩ | ⟨op, ho, hk, ⟨-, rfl⟩ | ⟨-, rfl⟩⟩ :=
    appMicroStep_eq_next h
  · exact ⟨rfl, rfl, fun hn => absurd rfl hn, fun hn => absurd rfl hn⟩
  · exact ⟨rfl, rfl, fun hn => absurd rfl hn, fun hn => absurd rfl hn⟩
  · exact ⟨rfl, rfl, fun hn => absurd rfl hn, fun _ => ⟨op, ho, hk⟩⟩
  · exact ⟨rfl, rfl, fun hn => absurd rfl hn, fun hn => absurd rfl hn⟩
  · exact ⟨rfl, rfl, fun _ => ⟨op, ho, hk⟩, fun hn => absurd rfl hn⟩

theorem appMicroStep_params (h : appMicroStep s = .next t) : t.params = s.params := by
  obtain ⟨-, rfl⟩ | ⟨op, -, -, ⟨b, -, rfl⟩ | ⟨-, rfl⟩⟩ | ⟨op, -, -, ⟨-, rfl⟩ | ⟨-, rfl⟩⟩ :=
    appMicroStep_eq_next h
  all_goals rfl

end Moves

/-- Settles O24: `INIT` empties the rings, and every other operation moves what `Moves` lets it. -/
theorem eachRingIndexHasOneWriter : Obligations.EachRingIndexHasOneWriter := by
  refine ⟨fun s t h => ?_, fun i s t h => ?_, fun s t => appMicroStep_indices⟩
  · have hd := execInit_sameDevice h
    rw [hd.rxrb, hd.txrb]
    exact ⟨rfl, rfl, rfl, rfl⟩
  · by_cases hi : i = .init
    · exact ⟨fun _ => .inl hi, fun _ => hi, fun _ => hi, fun _ => .inl hi⟩
    · have m := exec_moves hi h
      exact ⟨fun hn => .inr (m.rxHead hn), fun hn => absurd m.rxTail hn, fun hn => absurd m.txHead hn,
        fun hn => .inr (m.txTail hn)⟩

/-- Settles O59: of the moves only the staged address ends in Addressed, and it is staged in Default or Addressed. -/
theorem deviceStateMovesOnlyAsNamed : Obligations.DeviceStateMovesOnlyAsNamed := by
  intro i s t h
  have hmove : devStateMove i s t := by
    by_cases hi : i = .init
    · subst hi
      exact .inr (.inl ⟨(execInit_sameDevice h).devState, rfl⟩)
    · exact (exec_moves hi h).devState
  refine ⟨hmove, fun hp ht hs => ?_⟩
  obtain hsame | ⟨hd, -⟩ | ⟨hd, -⟩ | ⟨-, hstaged, -⟩ | ⟨hd, -⟩ | ⟨hd, -⟩ | ⟨hd, -⟩ := hmove
  · exact absurd (hsame.symm.trans ht) hs
  case inr.inr.inr.inl =>
    obtain hnone | ⟨hd, -⟩ := hp
    · simp [hnone] at hstaged
    · exact hd.resolve_right hs
  all_goals cases hd.symm.trans ht

/-- Settles O60: the payload of `CTRL.OUT_DONE` is the one writer of the line coding after `INIT`. -/
theorem lineCodingAndParametersPersist : Obligations.LineCodingAndParametersPersist := by
  refine ⟨fun i s t h hn => ?_, fun s t h => ?_⟩
  · by_cases hi : i = .init
    · exact .inl hi
    · exact .inr ((exec_moves hi h).lineCoding hn)
  · obtain ⟨i, l, he, -⟩ | ⟨l, he⟩ | rfl := step_eq_next h
    · exact (exec_params he :)
    · exact (appMicroStep_params he :)
    · rfl

end Sys2Proof.Machine
end

section
/-! Every step keeps the three memories in canonical form (O53): each writer of a memory keeps it, nothing else touches
one, and each operation is put together from these. -/

namespace Sys2Proof.Machine

section Canonical
variable {s t : State}

/-- The three memories one by one. -/
theorem memoriesCanonical_iff :
    s.memoriesCanonical = true
      ↔ Memory.wf s.pma = true ∧ Memory.wf s.rxrb.buf = true ∧ Memory.wf s.txrb.buf = true := by
  simp only [State.memoriesCanonical, Bool.and_eq_true, and_assoc]

/-! ## The writers: `PmaWrite` and `RingStore` -/

theorem pmaWrite_canonical {a : Nat} {bs : List Byte} (ht : pmaWrite a bs s = .next t)
    (h : s.memoriesCanonical = true) : t.memoriesCanonical = true := by
  obtain ⟨hpma, hrings⟩ := memoriesCanonical_iff.1 h
  obtain ⟨-, rfl⟩ := pmaWrite_eq_next.1 ht
  exact memoriesCanonical_iff.2 ⟨writtenPma_wf s a bs hpma, hrings⟩

theorem appendRx_canonical (d : List Byte) (k : Nat) (h : s.memoriesCanonical = true) :
    (appendRx d k s).memoriesCanonical = true := by
  obtain ⟨hpma, hrx, htx⟩ := memoriesCanonical_iff.1 h
  exact memoriesCanonical_iff.2 ⟨hpma, memory_wf_ringStores _ _ _ _ hrx, htx⟩

theorem writeOne_canonical (op : AppOp) (b : Byte) (h : s.memoriesCanonical = true) :
    (writeOne op b s).memoriesCanonical = true := by
  obtain ⟨hpma, hrx, htx⟩ := memoriesCanonical_iff.1 h
  exact memoriesCanonical_iff.2 ⟨hpma, hrx, memory_wf_ringStore _ _ _ _ htx⟩

/-! ## The registers and the table are no memory -/

theorem setEp_canonical (e : Ep) (x : Endpoint) (h : s.memoriesCanonical = true) :
    (s.setEp e x).memoriesCanonical = true := by
  cases e <;> exact h

theorem setBdt_canonical (e : Ep) (x : BdtEntry) (h : s.memoriesCanonical = true) :
    (s.setBdt e x).memoriesCanonical = true := by
  cases e <;> exact h

theorem setStatus_canonical {e : Ep} {d : Dir} {st : Status} (ht : setStatus e d st s = .next t)
    (h : s.memoriesCanonical = true) : t.memoriesCanonical = true := by
  obtain ⟨-, rfl⟩ := setStatus_eq_next.1 ht
  exact setEp_canonical _ _ h

theorem toggleData_canonical {e : Ep} {d : Dir} (ht : toggleData e d s = .next t)
    (h : s.memoriesCanonical = true) : t.memoriesCanonical = true := by
  obtain ⟨-, rfl⟩ := toggleData_eq_next.1 ht
  exact setEp_canonical _ _ h

theorem setTxCount_canonical {e : Ep} {n : Half} (ht : setTxCount e n s = .next t)
    (h : s.memoriesCanonical = true) : t.memoriesCanonical = true := by
  obtain ⟨-, -, rfl⟩ := setTxCount_eq_next.1 ht
  exact setBdt_canonical _ _ h

theorem configureTable_canonical (e : Ep) (tx rx m : Half) (h : s.memoriesCanonical = true) :
    (configureTable e tx rx m s).memoriesCanonical = true := by
  unfold configureTable
  split
  · cases e <;> exact h
  · exact h

theorem stall0_canonical (ht : stall0 s = .next t) (h : s.memoriesCanonical = true) :
    t.memoriesCanonical = true := by
  obtain ⟨-, rfl⟩ := stall0_eq_next.1 ht
  exact h

/-! ## The work of endpoint 0 -/

theorem startStatusIn_canonical {c : ControlTransfer} (ht : startStatusIn c s = .next t)
    (h : s.memoriesCanonical = true) : t.memoriesCanonical = true := by
  obtain ⟨u, h1, h2⟩ := andThen_eq_next.1 ht
  exact setStatus_canonical h2 (setTxCount_canonical h1 h)

theorem sendChunk_canonical {c : ControlTransfer} (ht : sendChunk c s = .next t)
    (h : s.memoriesCanonical = true) : t.memoriesCanonical = true := by
  obtain ⟨u, h1, h2⟩ := andThen_eq_next.1 ht
  obtain ⟨v, h3, h4⟩ := andThen_eq_next.1 h2
  have hu := pmaWrite_canonical h1 h
  exact setStatus_canonical h4 (setTxCount_canonical h3 hu)

theorem startDataIn_canonical {resp : List Byte} {c : ControlTransfer} (ht : startDataIn resp c s = .next t)
    (h : s.memoriesCanonical = true) : t.memoriesCanonical = true := by
  unfold startDataIn at ht
  split at ht
  · exact startStatusIn_canonical ht h
  · obtain ⟨u, h1, h2⟩ := andThen_eq_next.1 ht
    exact setStatus_canonical h2 (sendChunk_canonical h1 h)

/-- A request that is refused with the stall action, or goes on. -/
theorem stallOr_canonical {p : Prop} [Decidable p] {r : ProtocolReason} {o : Result}
    (ht : (if p then raiseProtocolError r s else o) = .next t) (ho : o = .next t → t.memoriesCanonical = true)
    (h : s.memoriesCanonical = true) : t.memoriesCanonical = true := by
  split at ht
  · exact stall0_canonical ht h
  · exact ho ht

theorem performRequest_canonical {rt rq : Byte} {v i l : Half} (ht : performRequest rt rq v i l s = .next t)
    (h : s.memoriesCanonical = true) : t.memoriesCanonical = true := by
  unfold performRequest at ht
  cases hk : selectRequest rt rq <;> simp only [hk] at ht
  case getStatus | getLineCoding => exact startDataIn_canonical ht h
  case getDescriptor =>
    unfold execReqGetDescriptor at ht
    split at ht
    · exact stall0_canonical ht h
    · exact startDataIn_canonical ht h
  case setAddress | setConfiguration | setControlLineState =>
    exact stallOr_canonical ht (fun hn => startStatusIn_canonical hn h) h
  case setLineCoding => exact stallOr_canonical ht (fun hn => setStatus_canonical hn h) h
  case unsupported => exact stall0_canonical ht h

theorem execCtrlSetup_canonical (ht : execCtrlSetup s = .next t) (h : s.memoriesCanonical = true) :
    t.memoriesCanonical = true := by
  obtain ⟨u, h1, h2⟩ := andThen_eq_next.1 ht
  obtain ⟨-, rfl⟩ := abortTransfer_eq_next h1
  obtain ⟨n, -, h3⟩ := withValue_eq_next.1 h2
  split at h3
  · exact stall0_canonical h3 h
  · obtain ⟨p, -, h4⟩ := withValue_eq_next.1 h3
    exact performRequest_canonical h4 h

theorem advanceDataIn_canonical {c : ControlTransfer} (ht : advanceDataIn c s = .next t)
    (h : s.memoriesCanonical = true) : t.memoriesCanonical = true := by
  unfold advanceDataIn at ht
  dsimp only at ht
  split at ht
  · exact sendChunk_canonical ht h
  · split at ht
    · obtain ⟨u, h1, h2⟩ := andThen_eq_next.1 ht
      exact setStatus_canonical h2 (setTxCount_canonical h1 h)
    · cases ht
      exact h

theorem finish_applyStagedAddress_canonical (h : s.memoriesCanonical = true) :
    (finish (applyStagedAddress s)).memoriesCanonical = true := by
  unfold applyStagedAddress
  split <;> exact h

theorem execCtrlInDone_canonical (ht : execCtrlInDone s = .next t) (h : s.memoriesCanonical = true) :
    t.memoriesCanonical = true := by
  obtain ⟨u, h1, h2⟩ := andThen_eq_next.1 ht
  have hu := toggleData_canonical h1 h
  split at h2
  · cases h2
    exact hu
  · split at h2
    · exact advanceDataIn_canonical h2 hu
    · split at h2 <;> cases h2
      · exact finish_applyStagedAddress_canonical hu
      · exact hu

theorem storeLineCoding_canonical {c : ControlTransfer} (ht : storeLineCoding c s = .next t)
    (h : s.memoriesCanonical = true) : t.memoriesCanonical = true := by
  obtain ⟨n, -, h1⟩ := withValue_eq_next.1 ht
  split at h1
  · exact stall0_canonical h1 h
  · obtain ⟨q, -, h2⟩ := withValue_eq_next.1 h1
    exact startStatusIn_canonical h2 h

theorem execCtrlOutDone_canonical (ht : execCtrlOutDone s = .next t) (h : s.memoriesCanonical = true) :
    t.memoriesCanonical = true := by
  obtain ⟨u, h1, h2⟩ := andThen_eq_next.1 ht
  have hu := toggleData_canonical h1 h
  split at h2
  · cases h2
    exact hu
  · split at h2
    · exact storeLineCoding_canonical h2 hu
    · split at h2
      · obtain ⟨v, h3, h4⟩ := andThen_eq_next.1 h2
        have hv := setStatus_canonical h3 hu
        cases h4
        exact hv
      · cases h2
        exact hu

/-! ## The work of endpoint 1 -/

theorem recordOverrun_canonical (n k : Nat) (h : s.memoriesCanonical = true) :
    (recordOverrun n k s).memoriesCanonical = true := by
  unfold recordOverrun
  split <;> exact h

theorem execBulkOutDone_canonical (ht : execBulkOutDone s = .next t) (h : s.memoriesCanonical = true) :
    t.memoriesCanonical = true := by
  unfold execBulkOutDone at ht
  split at ht
  · cases ht
    exact h
  · obtain ⟨n, -, h1⟩ := withValue_eq_next.1 ht
    obtain ⟨d, -, h2⟩ := withValue_eq_next.1 h1
    obtain ⟨u, h3, h4⟩ := andThen_eq_next.1 h2
    exact setStatus_canonical h4 (toggleData_canonical h3 (recordOverrun_canonical _ _ (appendRx_canonical _ _ h)))

theorem armIn_canonical {n : Nat} (ht : armIn n s = .next t) (h : s.memoriesCanonical = true) :
    t.memoriesCanonical = true := by
  obtain ⟨u, h1, h2⟩ := andThen_eq_next.1 ht
  obtain ⟨v, h3, h4⟩ := andThen_eq_next.1 h2
  have hv := setStatus_canonical h3 (setTxCount_canonical h1 h)
  cases h4
  exact hv

theorem tryStartIn_canonical {after : Bool} (ht : tryStartIn after s = .next t) (h : s.memoriesCanonical = true) :
    t.memoriesCanonical = true := by
  unfold tryStartIn at ht
  dsimp only at ht
  split at ht
  · obtain ⟨u, h1, h2⟩ := andThen_eq_next.1 ht
    have hu := pmaWrite_canonical h1 h
    exact armIn_canonical h2 hu
  · split at ht
    · exact armIn_canonical ht h
    · cases ht
      exact h

theorem execBulkInDone_canonical (ht : execBulkInDone s = .next t) (h : s.memoriesCanonical = true) :
    t.memoriesCanonical = true := by
  unfold execBulkInDone at ht
  split at ht
  · cases ht
    exact h
  · obtain ⟨u, h1, h2⟩ := andThen_eq_next.1 ht
    have hu := toggleData_canonical h1 h
    exact tryStartIn_canonical h2 hu

theorem execBulkKick_canonical (ht : execBulkKick s = .next t) (h : s.memoriesCanonical = true) :
    t.memoriesCanonical = true := by
  unfold execBulkKick at ht
  split at ht
  · exact tryStartIn_canonical ht h
  · cases ht
    exact h

/-! ## The link -/

theorem linkStep_canonical {body : State → Result} (ht : linkStep body s = .next t)
    (hb : ∀ u, body u = .next t → u.memoriesCanonical = true → t.memoriesCanonical = true)
    (h : s.memoriesCanonical = true) : t.memoriesCanonical = true := by
  unfold linkStep at ht
  split at ht
  · cases ht
    exact h
  · exact hb _ ht h

theorem answerByStatus_canonical {st : Status} {perform : State → Result} (ht : answerByStatus st perform s = .next t)
    (hp : perform s = .next t → t.memoriesCanonical = true) (h : s.memoriesCanonical = true) :
    t.memoriesCanonical = true := by
  cases st
  case valid => exact hp ht
  all_goals
    cases ht
    exact h

theorem acceptSetup_canonical {data : List Byte} (ht : acceptSetup data s = .next t)
    (h : s.memoriesCanonical = true) : t.memoriesCanonical = true := by
  obtain ⟨u, h1, h2⟩ := andThen_eq_next.1 ht
  have hu := pmaWrite_canonical h1 h
  cases h2
  exact hu

theorem performOut_canonical {e : Ep} {tog : Bool} {data : List Byte} (ht : performOut e tog data s = .next t)
    (h : s.memoriesCanonical = true) : t.memoriesCanonical = true := by
  unfold performOut at ht
  split at ht
  · cases ht
    exact h
  · split at ht
    · cases ht
      exact h
    · obtain ⟨u, h1, h2⟩ := andThen_eq_next.1 ht
      cases h2
      exact setEp_canonical _ _ (setBdt_canonical _ _ (pmaWrite_canonical h1 h))

theorem performIn_canonical {e : Ep} {hostAck : Bool} (ht : performIn e hostAck s = .next t)
    (h : s.memoriesCanonical = true) : t.memoriesCanonical = true := by
  obtain ⟨d, -, h1⟩ := withValue_eq_next.1 ht
  dsimp only at h1
  split at h1 <;> cases h1
  · exact setEp_canonical (s := respond _ s) _ _ h
  · exact h

theorem linkOp_canonical {i : Instr} (hi : isLinkOp i = true) (ht : exec i s = .next t)
    (h : s.memoriesCanonical = true) : t.memoriesCanonical = true := by
  cases i
  case busSetup =>
    simp only [exec] at ht
    refine linkStep_canonical ht (fun u hu h => ?_) h
    split at hu
    · split at hu
      · cases hu
        exact h
      · exact acceptSetup_canonical hu h
    · cases hu
      exact h
    · cases hu
      exact h
  case busOut =>
    simp only [exec] at ht
    refine linkStep_canonical ht (fun u hu h => ?_) h
    split at hu
    · exact answerByStatus_canonical hu (fun hv => performOut_canonical hv h) h
    · cases hu
      exact h
  case busIn =>
    simp only [exec] at ht
    refine linkStep_canonical ht (fun u hu h => ?_) h
    split at hu
    · exact answerByStatus_canonical hu (fun hv => performIn_canonical hv h) h
    · cases hu
      exact h
  case busReset | busSuspend | busWakeup =>
    simp only [exec] at ht
    refine linkStep_canonical ht (fun u hu h => ?_) h
    cases hu
    exact h
  all_goals cases hi

/-! ## The application -/

theorem bridgeOp_canonical {i : Instr} (hi : isBridgeOp i = true) (ht : exec i s = .next t)
    (h : s.memoriesCanonical = true) : t.memoriesCanonical = true := by
  cases i
  case brWrite | brRead | brAvail | brSpace | brOverrun | brKick =>
    simp only [exec] at ht
    obtain ⟨-, rfl⟩ := startBridge_eq_next.1 ht
    exact h
  all_goals cases hi

theorem appMicroStep_canonical (ht : appMicroStep s = .next t) (h : s.memoriesCanonical = true) :
    t.memoriesCanonical = true := by
  obtain ⟨-, rfl⟩ | ⟨op, -, -, ⟨b, -, rfl⟩ | ⟨-, rfl⟩⟩ | ⟨op, -, -, ⟨-, rfl⟩ | ⟨-, rfl⟩⟩ :=
    appMicroStep_eq_next ht
  case inr.inl.inl => exact writeOne_canonical op b h
  all_goals exact h

/-! ## Power-on -/

/-- `INIT` empties the three memories, whatever they held. -/
theorem execInit_canonical (ht : execInit s = .next t) : t.memoriesCanonical = true := by
  have hp : (powerOnFields s).memoriesCanonical = true := rfl
  unfold execInit at ht
  split at ht
  · dsimp only at ht
    have h1 := configureTable_canonical .ep0 s.params.layout0.tx s.params.layout0.rx s.params.layout0.rxMaxSize hp
    split at ht
    · cases ht
      exact h1
    · split at ht <;> cases ht <;> exact configureTable_canonical .ep1 _ _ _ h1
  · cases ht

/-! ## The dispatcher and every operation -/

theorem handleEvent_canonical {e : Event} {body : State → Result} (ht : handleEvent e body s = .next t)
    (hb : ∀ u, body s = .next u → u.memoriesCanonical = true) (h : s.memoriesCanonical = true) :
    t.memoriesCanonical = true := by
  cases hf : s.fatal with
  | true =>
    rw [handleEvent_fatal hf] at ht
    cases ht
    exact h
  | false =>
    obtain ⟨u, hu, rfl⟩ := (handleEvent_eq_next hf).1 ht
    exact hb u hu

/-- Every operation but `DISPATCH`. -/
theorem exec_canonical_of_single {i : Instr} (hd : ∀ w, i ≠ .dispatch w) (ht : exec i s = .next t)
    (h : s.memoriesCanonical = true) : t.memoriesCanonical = true := by
  cases i
  case init => exact execInit_canonical ht
  case dispatch w => exact absurd rfl (hd w)
  case bdtConfigure =>
    simp only [exec, execBdtConfigure] at ht
    split at ht
    · cases ht
      exact configureTable_canonical _ _ _ _ h
    · cases ht
  case bdtSetTxCount => exact setTxCount_canonical ht h
  case bdtReadRxCount =>
    obtain ⟨n, -, h1⟩ := withValue_eq_next.1 ht
    cases h1
    exact h
  case epConfigure =>
    cases ht
    exact setEp_canonical _ _ h
  case epSetStatus => exact setStatus_canonical ht h
  case epToggle => exact toggleData_canonical ht h
  case brWrite | brRead | brAvail | brSpace | brOverrun | brKick => exact bridgeOp_canonical rfl ht h
  case busSetup | busOut | busIn | busReset | busSuspend | busWakeup => exact linkOp_canonical rfl ht h
  case evReset =>
    refine handleEvent_canonical ht (fun u hu => ?_) h
    cases hu
    exact h
  case evSuspend | evWakeup =>
    refine handleEvent_canonical ht (fun u hu => ?_) h
    cases hu
    split <;> exact h
  case evEp0In => exact handleEvent_canonical ht (fun _ hu => execCtrlInDone_canonical hu h) h
  case evEp0Setup => exact handleEvent_canonical ht (fun _ hu => execCtrlSetup_canonical hu h) h
  case evEp0Out => exact handleEvent_canonical ht (fun _ hu => execCtrlOutDone_canonical hu h) h
  case evEp1Out => exact handleEvent_canonical ht (fun _ hu => execBulkOutDone_canonical hu h) h
  case evEp1In => exact handleEvent_canonical ht (fun _ hu => execBulkInDone_canonical hu h) h
  case evKick => exact handleEvent_canonical ht (fun _ hu => execBulkKick_canonical hu h) h
  case reqGetStatus v x l => exact performRequest_canonical (rt := 0x80) (rq := 0x00) ht h
  case reqSetAddress v x l => exact performRequest_canonical (rt := 0x00) (rq := 0x05) ht h
  case reqGetDescriptor v x l => exact performRequest_canonical (rt := 0x80) (rq := 0x06) ht h
  case reqSetConfiguration v x l => exact performRequest_canonical (rt := 0x00) (rq := 0x09) ht h
  case reqSetLineCoding v x l => exact performRequest_canonical (rt := 0x21) (rq := 0x20) ht h
  case reqGetLineCoding v x l => exact performRequest_canonical (rt := 0xA1) (rq := 0x21) ht h
  case reqSetControlLineState v x l => exact performRequest_canonical (rt := 0x21) (rq := 0x22) ht h
  case reqUnsupported => exact stall0_canonical ht h
  case ctrlSetup => exact execCtrlSetup_canonical ht h
  case ctrlInDone => exact execCtrlInDone_canonical ht h
  case ctrlOutDone => exact execCtrlOutDone_canonical ht h
  case bulkOutDone => exact execBulkOutDone_canonical ht h
  case bulkInDone => exact execBulkInDone_canonical ht h
  case bulkKick => exact execBulkKick_canonical ht h

theorem execDispatch_canonical {w : Half} (ht : execDispatch w s = .next t) (h : s.memoriesCanonical = true) :
    t.memoriesCanonical = true := by
  obtain rfl | ⟨-, -, -, rfl⟩ | rfl | ⟨f, e, -, rfl | ⟨u, -, hu, rfl⟩⟩ := execDispatch_eq_next ht
  case inr.inr.inr.inr =>
    rw [runHandler_eq_exec] at hu
    have hc := exec_canonical_of_single (handlerOf_ne_dispatch _ e) hu h
    exact hc
  all_goals exact h

theorem exec_canonical {i : Instr} (ht : exec i s = .next t) (h : s.memoriesCanonical = true) :
    t.memoriesCanonical = true := by
  by_cases hd : ∃ w, i = .dispatch w
  · obtain ⟨w, rfl⟩ := hd
    exact execDispatch_canonical (w := w) ht h
  · exact exec_canonical_of_single (not_exists.1 hd) ht h

end Canonical

/-- Settles O53: a step runs an operation or a micro-step on the state with the choice taken off the queue, or waits. -/
theorem everyStepKeepsMemoriesCanonical : Obligations.EveryStepKeepsMemoriesCanonical := by
  intro s t h ht
  obtain ⟨i, l, he, -⟩ | ⟨l, he⟩ | rfl := step_eq_next ht
  · exact exec_canonical he h
  · exact appMicroStep_canonical he h
  · exact h

end Sys2Proof.Machine
end

section
/-! A bridge operation starts when none is in progress (O19), and whose turn a step is (O8). -/

namespace Sys2Proof.Machine

/-- Each of the six bridge operations is its first micro-step behind the test of `appOp`. -/
theorem bridgeOp_eq_startBridge {i : Instr} (hi : isBridgeOp i = true) :
    ∃ body, ∀ s, exec i s = startBridge body s := by
  cases i
  case brWrite | brRead | brAvail | brSpace | brOverrun | brKick => exact ⟨_, fun _ => rfl⟩
  all_goals cases hi

theorem startBridge_of_idle {s : State} (h : s.appOp = none) (body : State → State) :
    startBridge body s = .next (body s) :=
  startBridge_eq_next.2 ⟨h, rfl⟩

theorem startBridge_of_busy {s : State} (h : s.appOp ≠ none) (body : State → State) :
    startBridge body s = .refused .bridgeBusy := by
  obtain ⟨op, hop⟩ := Option.ne_none_iff_exists'.1 h
  simp [startBridge, hop]

/-- Settles O19: the test of `appOp` is the only one a bridge operation makes. -/
theorem secondBridgeOperationIsRefused : Obligations.SecondBridgeOperationIsRefused := by
  intro i s hi
  obtain ⟨body, hbody⟩ := bridgeOp_eq_startBridge hi
  rw [hbody]
  exact ⟨fun h => ⟨_, startBridge_of_idle h body⟩, fun h => startBridge_of_busy h body⟩

/-! ## The turns -/

section Turn
variable {s u : State}

/-- After `INIT` no operation is stopped at the gate. -/
theorem step_of_run {i : Instr} (hn : nextOp s = .run i u) (hl : u.lifecycle = .running) : step s = exec i u := by
  simp [step, hn, gate, hl]

theorem step_of_micro (hn : nextOp s = .micro u) (hl : u.lifecycle = .running) : step s = appMicroStep u := by
  simp [step, hn, microGate, hl]

theorem step_of_idle (hn : nextOp s = .idle) : step s = idleStep s := by
  simp [step, hn]

/-- The dispatcher's condition for a step (spec/20_memory.md R87, spec/44_dispatcher.md R220). -/
theorem dispatcherHasStep_iff :
    s.dispatcherHasStep = true ↔ s.fatal = false ∧ (s.dispSnap ≠ none ∨ s.istat.irq = true) := by
  simp [State.dispatcherHasStep, Option.isSome_iff_ne_none]

/-- On an empty queue the dispatcher comes first, then the application, then the wait. -/
theorem nextOp_of_empty (hq : s.inputs = []) :
    nextOp s = if s.dispatcherHasStep then .run (.dispatch s.dispatchWord) s
      else if s.appOp.isSome then .micro s else .idle := by
  simp [nextOp, hq]

end Turn

/-- Settles O8: `nextOp` on each head of the queue, and on the empty queue the order of `nextOp_of_empty`. -/
theorem stepGivesEachAgentItsTurn : Obligations.StepGivesEachAgentItsTurn := by
  intro s hl
  refine ⟨fun rest hq => ?_, fun rest hq => ?_, fun hq => ⟨fun hf hs => ?_, fun hn => ?_⟩⟩
  · exact step_of_run (by rw [nextOp, hq]; rfl) hl
  · exact step_of_micro (by rw [nextOp, hq]) hl
  · have hd : s.dispatcherHasStep = true := dispatcherHasStep_iff.2 ⟨hf, hs⟩
    exact step_of_run (by rw [nextOp_of_empty hq, if_pos hd]; rfl) hl
  · have hd : ¬ s.dispatcherHasStep = true := by
      rw [dispatcherHasStep_iff]
      rintro ⟨hf, hs⟩
      obtain hfatal | ⟨hsnap, hirq⟩ := hn
      · simp [hf] at hfatal
      · simp [hsnap, hirq] at hs
    have hnext := (nextOp_of_empty hq).trans (if_neg hd)
    refine ⟨fun ha => ?_, fun ha hf => ?_, fun ha hf => ?_⟩
    · exact step_of_micro (hnext.trans (if_pos (Option.isSome_iff_ne_none.2 ha))) hl
    · rw [step_of_idle (hnext.trans (by simp [ha]))]
      simp [idleStep, hf]
    · rw [step_of_idle (hnext.trans (by simp [ha]))]
      simp [idleStep, hf]

end Sys2Proof.Machine
end

section
/-! From the invariant a step of the agents stops only on undecodable bytes, a second bridge operation or a second
`INIT` (O55): each operation answers a next state on an endpoint that is ready for it, and the invariant makes it so. -/

namespace Sys2Proof.Machine

section Answers
variable {s : State}

/-! ## What the invariant gives the two endpoints -/

theorem ep0Ready_of_invariant (h : s.Invariant) (hc : s.ep0.configured = true) : s.ep0Ready := by
  obtain ⟨hb0, -, he0, -, -⟩ := h.table
  exact ⟨hc, hb0, he0⟩

theorem ep1Ready_of_invariant (h : s.Invariant) (hc : s.ep1.configured = true) : s.ep1Ready := by
  obtain ⟨-, hb1, -, he1, -⟩ := h.table
  exact ⟨hc, hb1, he1⟩

/-! ## Sequencing -/

theorem andThen_answers {o : Result} {u : State} {f : State → Result} (ho : o = .next u)
    (hf : ∃ t, f u = .next t) : ∃ t, andThen o f = .next t := by
  rwa [andThen_of_next ho]

theorem withValue_answers {α : Type} {v : Except Refusal α} {a : α} {f : α → Result} (hv : v = .ok a)
    (hf : ∃ t, f a = .next t) : ∃ t, withValue v f = .next t := by
  rwa [withValue_of_ok hv]

/-- The stall action, or what a good packet brings. -/
theorem stallOr_answers {p : Prop} [Decidable p] {r : ProtocolReason} {o : Result} (hc : s.ep0.configured = true)
    (ho : ¬ p → ∃ t, o = .next t) : ∃ t, (if p then raiseProtocolError r s else o) = .next t := by
  split
  · exact ⟨_, stall0_of_configured hc⟩
  · exact ho ‹_›

/-! ## Packet memory inside a buffer -/

/-- A packet that fits a receive buffer can be written there. -/
theorem pmaWrite_rx_answers {b : BdtEntry} (hb : entryOk s.params b) {d : List Byte}
    (hd : d.length ≤ b.rxMaxCount.toNat) : ∃ t, pmaWrite b.rxOffset.toNat d s = .next t := by
  obtain ⟨-, heven, -, hlow, -, hmax, -, -, -, hhigh⟩ := hb
  exact ⟨_, pmaWrite_of_inside (Nat.le_trans hd hmax) heven hlow (by omega)⟩

theorem pmaRead_rx {b : BdtEntry} (hb : entryOk s.params b) {n : Nat} (hn : n ≤ b.rxMaxCount.toNat) :
    pmaRead b.rxOffset.toNat n s = .ok (s.pmaBytes b.rxOffset.toNat n) := by
  obtain ⟨-, -, -, hlow, -, hmax, -, -, -, hhigh⟩ := hb
  exact pmaRead_of_inside (Nat.le_trans hn hmax) hlow (by omega)

theorem pmaRead_tx {b : BdtEntry} (hb : entryOk s.params b) :
    pmaRead b.txOffset.toNat b.txCount.toNat s = .ok (s.pmaBytes b.txOffset.toNat b.txCount.toNat) := by
  obtain ⟨-, -, hlow, -, -, -, hcount, -, hhigh, -⟩ := hb
  exact pmaRead_of_inside hcount hlow (by omega)

theorem rxCount_le {p : Params} {b : BdtEntry} (hb : entryOk p b) : b.rxCount.toNat ≤ b.rxMaxCount.toNat := by
  obtain ⟨-, -, -, -, -, -, -, hcount, -⟩ := hb
  exact hcount

/-! ## The work of endpoint 0 -/

theorem startDataIn_answers (h : s.ep0Ready) (resp : List Byte) (c : ControlTransfer) :
    ∃ t, startDataIn resp c s = .next t :=
  (startDataIn_of_ready h).imp fun _ => And.left

theorem performRequest_answers (h : s.ep0Ready) (rt rq : Byte) (v i l : Half) :
    ∃ t, performRequest rt rq v i l s = .next t := by
  obtain ⟨hc, hb, -⟩ := id h
  unfold performRequest
  cases selectRequest rt rq
  case getStatus | getLineCoding => exact startDataIn_answers h _ _
  case setAddress =>
    exact stallOr_answers hc fun _ =>
      ⟨_, startStatusIn_of_ready (s := { s with pendingAddr := some (addressOf v) }) hc hb⟩
  case getDescriptor =>
    simp only [execReqGetDescriptor]
    split
    · exact ⟨_, stall0_of_configured hc⟩
    · exact startDataIn_answers h _ _
  case setConfiguration =>
    exact stallOr_answers hc fun _ =>
      ⟨_, startStatusIn_of_ready (s := { configureEndpoint .ep1 .bulk .nak .valid
        { s with devState := .configured } with ep1TxBusy := false, ep1TxLastLen := 0 }) hc hb⟩
  case setLineCoding => exact stallOr_answers hc fun _ => ⟨_, setStatus_of_configured (e := .ep0) _ _ hc⟩
  case setControlLineState => exact stallOr_answers hc fun _ => ⟨_, startStatusIn_of_ready hc hb⟩
  case unsupported => exact ⟨_, stall0_of_configured hc⟩

theorem execCtrlSetup_answers (h : s.ep0Ready) : ∃ t, execCtrlSetup s = .next t := by
  obtain ⟨hc, hb, he⟩ := id h
  refine andThen_answers (abortTransfer_of_configured hc)
    (withValue_answers (readRxCount_of_configured (e := .ep0) hb) (stallOr_answers hc fun h8 => ?_))
  have h8 : s.bdt0.rxCount = 8 := not_not.1 h8
  have hlen : Config.setupLen ≤ s.bdt0.rxMaxCount.toNat := by
    have := rxCount_le he
    rwa [h8] at this
  exact withValue_answers (pmaRead_rx (s := s.aborted) he hlen) (performRequest_answers (s := s.aborted) h _ _ _ _ _)

theorem advanceDataIn_answers (h : s.ep0Ready) (c : ControlTransfer) : ∃ t, advanceDataIn c s = .next t := by
  obtain ⟨hc, hb, -⟩ := id h
  unfold advanceDataIn
  dsimp only
  split
  · exact ⟨_, sendChunk_of_ready h⟩
  · split
    · exact andThen_answers (setTxCount_of_configured (e := .ep0) hb (by decide))
        ⟨_, setStatus_of_configured (e := .ep0) _ _ hc⟩
    · exact ⟨_, rfl⟩

theorem execCtrlInDone_answers (h : s.ep0Ready) : ∃ t, execCtrlInDone s = .next t := by
  refine andThen_answers (toggleData_of_configured (e := .ep0) .tx h.1) ?_
  split
  · exact ⟨_, rfl⟩
  · split
    · exact advanceDataIn_answers (s := s.setEp .ep0 ((s.ep .ep0).flip .tx)) h _
    · split <;> exact ⟨_, rfl⟩

theorem storeLineCoding_answers (h : s.ep0Ready) (c : ControlTransfer) : ∃ t, storeLineCoding c s = .next t := by
  obtain ⟨hc, hb, he⟩ := h
  refine withValue_answers (readRxCount_of_configured (e := .ep0) hb) (stallOr_answers hc fun h7 => ?_)
  have h7 : s.bdt0.rxCount = 7 := not_not.1 h7
  have hlen : Config.lineCodingLen ≤ s.bdt0.rxMaxCount.toNat := by
    have := rxCount_le he
    rwa [h7] at this
  exact withValue_answers (pmaRead_rx he hlen) ⟨_, startStatusIn_of_ready (s := { s with lineCoding := _ }) hc hb⟩

theorem execCtrlOutDone_answers (h : s.ep0Ready) : ∃ t, execCtrlOutDone s = .next t := by
  obtain ⟨hc, -, -⟩ := id h
  refine andThen_answers (toggleData_of_configured (e := .ep0) .rx hc) ?_
  split
  · exact ⟨_, rfl⟩
  · split
    · exact storeLineCoding_answers (s := s.setEp .ep0 ((s.ep .ep0).flip .rx)) h _
    · split
      · exact andThen_answers (setStatus_of_configured (e := .ep0) _ _ hc) ⟨_, rfl⟩
      · exact ⟨_, rfl⟩

/-! ## The work of endpoint 1: with the endpoint not configured its bodies have no effect -/

theorem execBulkOutDone_answers (h : s.ep1.configured = true → s.ep1Ready) : ∃ t, execBulkOutDone s = .next t := by
  unfold execBulkOutDone
  split
  · exact ⟨_, rfl⟩
  · rename_i hn
    obtain ⟨hc, hb, he⟩ := h (by simpa using hn)
    refine withValue_answers (readRxCount_of_configured (e := .ep1) hb)
      (withValue_answers (pmaRead_rx he (rxCount_le he)) ?_)
    have hu {n k : Nat} {d : List Byte} : (recordOverrun n k (appendRx d k s)).ep1.configured = true :=
      (recordOverrun_frame n k (appendRx d k s)).configured.trans hc
    exact andThen_answers (toggleData_of_configured (e := .ep1) .rx hu)
      ⟨_, setStatus_of_configured (e := .ep1) _ _ hu⟩

theorem execBulkInDone_answers (h : s.ep1.configured = true → s.ep1Ready) : ∃ t, execBulkInDone s = .next t := by
  unfold execBulkInDone
  split
  · exact ⟨_, rfl⟩
  · rename_i hn
    have hr := h (by simpa using hn)
    exact andThen_answers (toggleData_of_configured (e := .ep1) .tx hr.1)
      ((tryStartIn_of_ready (s := { s.setEp .ep1 ((s.ep .ep1).flip .tx) with ep1TxBusy := false }) hr).imp
        fun _ => And.left)

theorem execBulkKick_answers (h : s.ep1.configured = true → s.ep1Ready) : ∃ t, execBulkKick s = .next t := by
  unfold execBulkKick
  split
  · rename_i hc
    exact (tryStartIn_of_ready (h hc.1)).imp fun _ => And.left
  · exact ⟨_, rfl⟩

/-! ## The dispatcher -/

theorem handleEvent_answers {e : Event} {body : State → Result} (hf : s.fatal = false)
    (hb : ∃ u, body s = .next u) : ∃ t, handleEvent e body s = .next t := by
  obtain ⟨u, hu⟩ := hb
  exact ⟨_, (handleEvent_eq_next hf).2 ⟨u, hu, rfl⟩⟩

/-- A completion flag of endpoint 0 stands only on a configured endpoint, and the bodies of endpoint 1 test for it. -/
theorem runHandler_answers (h : s.Invariant) {e : Event} (he : s.istat.has e = true) :
    ∃ t, runHandler e s = .next t := by
  have h1 : s.ep1.configured = true → s.ep1Ready := ep1Ready_of_invariant h
  cases e
  case reset | susp | wkup => exact handleEvent_answers h.notFatal ⟨_, rfl⟩
  case ctEp0Tx =>
    exact handleEvent_answers h.notFatal (execCtrlInDone_answers (ep0Ready_of_invariant h (h.flags0 (.inr he))))
  case ctEp0Rx =>
    have h0 : s.ep0Ready := ep0Ready_of_invariant h (h.flags0 (.inl he))
    simp only [runHandler]
    split
    · exact handleEvent_answers h.notFatal (execCtrlSetup_answers h0)
    · exact handleEvent_answers h.notFatal (execCtrlOutDone_answers h0)
  case ctEp1Rx => exact handleEvent_answers h.notFatal (execBulkOutDone_answers h1)
  case ctEp1Tx => exact handleEvent_answers h.notFatal (execBulkInDone_answers h1)
  case kick => exact handleEvent_answers h.notFatal (execBulkKick_answers h1)

/-- Flags of which `setup` is not alone select an event (spec/93_implementation_defined.md F8). -/
theorem firstEvent_of_irq {f : Istat} (hi : f.irq = true) (hs : f.ctEp0Rx = false → f.setup = false) :
    ∃ e, f.firstEvent = some e := by
  rw [← Option.isSome_iff_exists, Istat.firstEvent, List.find?_isSome]
  have hsetup : f.setup = true → f.ctEp0Rx = true := fun h => by
    by_contra hc
    simp [hs (by simpa using hc)] at h
  simp only [Istat.irq, Bool.or_eq_true] at hi
  obtain (((((((hf | hf) | hf) | hf) | hf) | hf) | hf) | hf) | hf := hi
  · exact ⟨.ctEp0Rx, by decide, hf⟩
  · exact ⟨.ctEp0Tx, by decide, hf⟩
  · exact ⟨.ctEp1Rx, by decide, hf⟩
  · exact ⟨.ctEp1Tx, by decide, hf⟩
  · exact ⟨.ctEp0Rx, by decide, hsetup hf⟩
  · exact ⟨.kick, by decide, hf⟩
  · exact ⟨.reset, by decide, hf⟩
  · exact ⟨.susp, by decide, hf⟩
  · exact ⟨.wkup, by decide, hf⟩

theorem execDispatch_answers (h : s.Invariant) (w : Half) : ∃ t, execDispatch w s = .next t := by
  unfold execDispatch
  rw [if_neg (by simp [h.notFatal])]
  split
  · rename_i f hf
    obtain ⟨hi, hs⟩ := h.snapshot f hf
    obtain ⟨e, he⟩ := firstEvent_of_irq hi hs
    have hu : ∃ u, (if s.istat.has e then runHandler e s else .next s) = .next u := by
      split
      · exact runHandler_answers h ‹_›
      · exact ⟨_, rfl⟩
    obtain ⟨u, hu⟩ := hu
    simp only [handlerStep, hi, he, hu, Bool.true_eq_false, if_false, andThen_next]
    exact ⟨_, rfl⟩
  · split <;> exact ⟨_, rfl⟩

/-! ## The link -/

theorem linkStep_answers (h : s.Invariant) {body : State → Result}
    (hb : ∀ u : State, u.Invariant → ∃ t, body u = .next t) : ∃ t, linkStep body s = .next t := by
  rw [linkStep_of_running h.notFatal]
  exact hb _ (applyRequests_invariant h)

theorem answerByStatus_answers {st : Status} {perform : State → Result} (hp : ∃ t, perform s = .next t) :
    ∃ t, answerByStatus st perform s = .next t := by
  cases st
  case valid => exact hp
  all_goals exact ⟨_, rfl⟩

theorem acceptSetup_answers (h : s.Invariant) {data : List Byte} (hd : data.length = Config.setupLen)
    (hm : ¬ s.bdt0.rxMaxCount.toNat < 8) : ∃ t, acceptSetup data s = .next t := by
  have hfit : data.length ≤ s.bdt0.rxMaxCount.toNat := hd.trans_le (Nat.le_of_not_lt hm)
  obtain ⟨u, hu⟩ := pmaWrite_rx_answers (invariant_entryOk h .ep0) hfit
  exact andThen_answers hu ⟨_, rfl⟩

theorem performOut_answers (h : s.Invariant) (e : Ep) (tog : Bool) (data : List Byte) :
    ∃ t, performOut e tog data s = .next t := by
  unfold performOut
  split
  · exact ⟨_, rfl⟩
  · rename_i hfit
    split
    · exact ⟨_, rfl⟩
    · obtain ⟨u, hu⟩ := pmaWrite_rx_answers (invariant_entryOk h e) (Nat.le_of_not_lt hfit)
      exact andThen_answers hu ⟨_, rfl⟩

theorem performIn_answers (h : s.Invariant) (e : Ep) (hostAck : Bool) : ∃ t, performIn e hostAck s = .next t := by
  refine withValue_answers (pmaRead_tx (invariant_entryOk h e)) ?_
  dsimp only
  split <;> exact ⟨_, rfl⟩

theorem linkOp_answers (h : s.Invariant) {i : Instr} (hi : isLinkOp i = true) : ∃ t, exec i s = .next t := by
  cases i
  case busSetup addr endp data =>
    simp only [exec]
    refine linkStep_answers h fun u hu => ?_
    split
    · split
      · exact ⟨_, rfl⟩
      · rename_i hg
        obtain ⟨hlen, -, hmax⟩ : ¬ data.length ≠ Config.setupLen ∧ _ ∧ _ := by simpa only [not_or] using hg
        exact acceptSetup_answers hu (not_not.1 hlen) hmax
    · exact ⟨_, rfl⟩
    · exact ⟨_, rfl⟩
  case busOut =>
    simp only [exec]
    refine linkStep_answers h fun u hu => ?_
    split
    · exact answerByStatus_answers (performOut_answers hu _ _ _)
    · exact ⟨_, rfl⟩
  case busIn =>
    simp only [exec]
    refine linkStep_answers h fun u hu => ?_
    split
    · exact answerByStatus_answers (performIn_answers hu _ _)
    · exact ⟨_, rfl⟩
  case busReset | busSuspend | busWakeup => exact linkStep_answers h fun u _ => ⟨_, rfl⟩
  all_goals cases hi

/-! ## The application -/

/-- A micro-step of a write finds the byte it asks for: the record takes no more than the caller gave (log 23). -/
theorem appMicroStep_answers (h : s.Invariant) : ∃ t, appMicroStep s = .next t := by
  unfold appMicroStep
  split
  · exact ⟨_, rfl⟩
  · rename_i op hop
    obtain ⟨-, hc⟩ := h.bridge op hop
    cases hk : op.kind
    case read =>
      dsimp only
      split <;> exact ⟨_, rfl⟩
    case write =>
      simp only [hk] at hc
      obtain ⟨-, hlen, -⟩ := hc
      dsimp only
      split
      · rename_i hi
        rw [List.getElem?_eq_getElem (Nat.lt_of_lt_of_le hi hlen)]
        exact ⟨_, rfl⟩
      · exact ⟨_, rfl⟩

/-- An operation of the agents answers a next state, or is a second bridge operation or a second `INIT`. -/
theorem exec_agent_answers {i : Instr} (h : s.Invariant)
    (hi : i = .init ∨ isBridgeOp i = true ∨ isLinkOp i = true ∨ ∃ w, i = .dispatch w) :
    (∃ t, exec i s = .next t) ∨ exec i s = .refused .bridgeBusy ∨ exec i s = .refused .secondInit := by
  obtain rfl | ha | hb | ⟨w, rfl⟩ := hi
  · exact .inr (.inr (if_neg (by simp [h.running])))
  · obtain ⟨hidle, hbusy⟩ := secondBridgeOperationIsRefused i s ha
    by_cases ho : s.appOp = none
    · exact .inl (hidle ho)
    · exact .inr (.inl (hbusy ho))
  · exact .inl (linkOp_answers h hb)
  · exact .inl (execDispatch_answers h w)

end Answers

/-- Settles O55: after `INIT` nothing is stopped at the gate, what is run is an agent's operation or a micro-step, and
a block that is not fatal waits. -/
theorem agentStepsStopOnlyOnBadRequests : Obligations.AgentStepsStopOnlyOnBadRequests := by
  intro s h hs
  have hq : ∀ l, State.Invariant { s with inputs := l } := fun l => { h with }
  obtain ⟨i, l, hn, hi⟩ | ⟨l, hn⟩ | hn | ⟨e, hn⟩ := nextOp_cases s
  · rw [step_of_run hn h.running]
    obtain ht | hbusy | hsecond := exec_agent_answers (hq l) (agentOp_cases hs hi)
    · exact .inl ht
    · exact .inr (.inr (.inl hbusy))
    · exact .inr (.inr (.inr hsecond))
  · rw [step_of_micro hn h.running]
    exact .inl (appMicroStep_answers (hq l))
  · rw [step_of_idle hn]
    exact .inl ⟨s, if_neg (by simp [h.notFatal])⟩
  · exact .inr (.inl ⟨e, by simp [step, hn]⟩)

end Sys2Proof.Machine
end

section
/-! What a reader of the decoder reads is what the matching writer wrote, so decoding and encoding undo each other
(O1, O2); words that name nothing (O3, O4), words written out (O5), and the step that runs a decoded operation (O7). -/

namespace Sys2Proof.Machine

/-! ## What each reader reads

The converses of the `@[simp]` lemmas of Laws/Decode.lean, beside `readNumber_eq_ok`. -/

section Readers
variable {bs rest : List Byte}

theorem readByte_eq_ok {b : Byte} (h : readByte bs = .ok (b, rest)) : bs = b :: rest := by
  cases bs with
  | nil => cases h
  | cons c bs => cases h; rfl

theorem bytesLe16_append (hi lo : Byte) : bytesLe16 (hi ++ lo) = [lo, hi] :=
  congrArg₂ (fun a b => [a, b]) BitVec.extractLsb'_append_eq_right BitVec.extractLsb'_append_eq_left

theorem readHalf_eq_ok {v : Half} (h : readHalf bs = .ok (v, rest)) : bs = bytesLe16 v ++ rest := by
  match bs, h with
  | b0 :: b1 :: bs, h =>
    cases h
    rw [bytesLe16_append]
    rfl

/-- A byte that stands for one of two values is the code of the value it is read as. -/
theorem cons_eq_of_two_codes {α : Type} {x y a : α} {code : α → Byte} (hx : code x = 0) (hy : code y = 1)
    {b : Byte}
    (h : (if b = 0 then .ok (x, bs) else if b = 1 then .ok (y, bs) else .error .badOperand : Decoded α)
      = .ok (a, rest)) : b :: bs = code a :: rest := by
  split at h
  · cases h
    simp [*]
  · split at h
    · cases h
      simp [*]
    · cases h

theorem readEp_eq_ok {e : Ep} (h : readEp bs = .ok (e, rest)) : bs = e.number :: rest := by
  cases bs with
  | nil => cases h
  | cons b bs => exact cons_eq_of_two_codes (code := Ep.number) (x := Ep.ep0) (y := Ep.ep1) rfl rfl h

theorem readDir_eq_ok {d : Dir} (h : readDir bs = .ok (d, rest)) : bs = d.code :: rest := by
  cases bs with
  | nil => cases h
  | cons b bs => exact cons_eq_of_two_codes (code := Dir.code) (x := Dir.tx) (y := Dir.rx) rfl rfl h

theorem readEpType_eq_ok {t : EpType} (h : readEpType bs = .ok (t, rest)) : bs = t.code :: rest := by
  cases bs with
  | nil => cases h
  | cons b bs => exact cons_eq_of_two_codes (code := EpType.code) (x := EpType.control) (y := EpType.bulk) rfl rfl h

theorem readBool_eq_ok {b : Bool} (h : readBool bs = .ok (b, rest)) : bs = boolCode b :: rest := by
  cases bs with
  | nil => cases h
  | cons c bs => exact cons_eq_of_two_codes (code := boolCode) (x := false) (y := true) rfl rfl h

theorem readStatus_eq_ok {st : Status} (h : readStatus bs = .ok (st, rest)) : bs = st.code :: rest := by
  cases bs with
  | nil => cases h
  | cons b bs =>
    rw [readStatus] at h
    repeat' split at h
    all_goals cases h <;> simp [Status.code, *]

/-- A byte within the range of a narrower word is that word, widened again. -/
theorem setWidth_ofNat_toNat {w : Nat} {b : Byte} (h : b.toNat < 2 ^ w) : (BitVec.ofNat w b.toNat).setWidth 8 = b := by
  apply BitVec.eq_of_toNat_eq
  simp only [BitVec.toNat_setWidth, BitVec.toNat_ofNat, Nat.mod_eq_of_lt h, Nat.mod_eq_of_lt b.isLt]

theorem readAddr_eq_ok {a : BitVec 7} (h : readAddr bs = .ok (a, rest)) : bs = a.setWidth 8 :: rest := by
  cases bs with
  | nil => cases h
  | cons b bs =>
    rw [readAddr] at h
    split at h
    · rename_i hb
      cases h
      rw [setWidth_ofNat_toNat hb]
    · cases h

theorem readEndp_eq_ok {e : BitVec 4} (h : readEndp bs = .ok (e, rest)) : bs = e.setWidth 8 :: rest := by
  cases bs with
  | nil => cases h
  | cons b bs =>
    rw [readEndp] at h
    split at h
    · rename_i hb
      cases h
      rw [setWidth_ofNat_toNat hb]
    · cases h

theorem readBytes_eq_ok {n : Nat} {data : List Byte} (h : readBytes n bs = .ok (data, rest)) :
    data.length = n ∧ bs = data ++ rest := by
  unfold readBytes at h
  split at h
  · cases h
  · cases h
    exact ⟨List.length_take_of_le (by omega), (List.take_append_drop n bs).symm⟩

theorem readString_eq_ok {data : List Byte} (h : readString bs = .ok (data, rest)) :
    bs = stringBytes data ++ rest := by
  obtain ⟨n, bs, hn, h⟩ := andRead_eq_ok.1 h
  obtain ⟨rfl, rfl⟩ := readBytes_eq_ok h
  rw [readNumber_eq_ok hn, stringBytes, List.append_assoc]

end Readers

/-! ## ISTAT words -/

/-- Format E: one event's handler, else a `DISPATCH`, of every word that can occur (spec/30_encoding.md R107). -/
theorem decodeEventWord_eq (w : Half) :
    decodeEventWord w =
      if eventWordOk w then .ok ((singleEvent w).getD (.dispatch w)) else .error .reservedEventWord := by
  unfold decodeEventWord
  cases singleEvent w <;> rfl

theorem eventWordOk_iff (w : Half) : eventWordOk w = true ↔ w &&& 0xF8C0 = 0 ∧ w ≠ 0 ∧ w ≠ 0x0010 := by
  simp [eventWordOk, eventMask, and_assoc]

/-- A handler that a word selects is encoded by that word. -/
theorem encode_of_singleEvent {w : Half} {i : Instr} (h : singleEvent w = some i) :
    i.wellFormed = true ∧ encode i = some (.E, bytesLe16 w) := by
  unfold singleEvent at h
  repeat' split at h
  all_goals cases h <;> subst w <;> exact ⟨rfl, rfl⟩

theorem singleEvent_eq_none {w : Half}
    (h : w ∉ ([0, 0x0010, 0x0100, 0x0200, 0x0400, 0x0002, 0x0011, 0x0001, 0x0004, 0x0008, 0x0020] : List Half)) :
    singleEvent w = none := by
  simp only [List.mem_cons, List.not_mem_nil, or_false, not_or] at h
  simp only [singleEvent, h, if_false]

theorem decodeE_bytesLe16 {w : Half} {i : Instr} (h : decodeEventWord w = .ok i) (rest : List Byte) :
    decodeE (bytesLe16 w ++ rest) = .ok (i, rest) := by
  simp [decodeE, h]

/-! ## SETUP packets -/

theorem decodeS_setupBytes (rt rq : Byte) (value index length : Half) (rest : List Byte) :
    decodeS (setupBytes rt rq value index length ++ rest)
      = .ok (requestInstr (selectRequest rt rq) rt rq value index length, rest) := by
  simp [decodeS, setupBytes, readByte]

theorem decodeS_eq_ok {bs rest : List Byte} {i : Instr} (h : decodeS bs = .ok (i, rest)) :
    ∃ rt rq value index length, bs = setupBytes rt rq value index length ++ rest
      ∧ i = requestInstr (selectRequest rt rq) rt rq value index length := by
  obtain ⟨rt, b1, h1, h⟩ := andRead_eq_ok.1 h
  obtain ⟨rq, b2, h2, h⟩ := andRead_eq_ok.1 h
  obtain ⟨value, b3, h3, h⟩ := andRead_eq_ok.1 h
  obtain ⟨index, b4, h4, h⟩ := andRead_eq_ok.1 h
  obtain ⟨length, b5, h5, h⟩ := andRead_eq_ok.1 h
  cases h
  refine ⟨rt, rq, value, index, length, ?_, rfl⟩
  rw [readByte_eq_ok h1, readByte_eq_ok h2, readHalf_eq_ok h3, readHalf_eq_ok h4, readHalf_eq_ok h5]
  simp [setupBytes]

theorem length_setupBytes (rt rq : Byte) (value index length : Half) :
    (setupBytes rt rq value index length).length = 8 := rfl

/-- A request that R104 selects is encoded by the packet it was selected from. -/
theorem encode_requestInstr (rt rq : Byte) (value index length : Half) :
    (requestInstr (selectRequest rt rq) rt rq value index length).wellFormed = true
    ∧ encode (requestInstr (selectRequest rt rq) rt rq value index length)
        = some (.S, setupBytes rt rq value index length) := by
  by_cases hu : selectRequest rt rq = .unsupported
  · rw [hu]
    exact ⟨by simp [requestInstr, Instr.wellFormed, hu], rfl⟩
  · unfold selectRequest at hu ⊢
    split_ifs at hu ⊢
    case neg => exact absurd rfl hu
    all_goals
      obtain ⟨rfl, rfl⟩ := ‹rt = _ ∧ rq = _›
      exact ⟨rfl, rfl⟩

/-! ## Decoding what was encoded -/

/-- The decoder of an operation's format reads exactly the encoder's bytes off the front of a longer string. -/
theorem decode_encode {i : Instr} {f : Format} {bytes : List Byte} (hw : i.wellFormed = true)
    (he : encode i = some (f, bytes)) (rest : List Byte) : decode f (bytes ++ rest) = .ok (i, rest) := by
  cases i
  case init => cases he; rfl
  case bdtConfigure | bdtSetTxCount | bdtReadRxCount | epConfigure | epSetStatus | epToggle =>
    cases he
    simp [decode, decodeC, readByte]
  case brWrite | brRead | brAvail | brSpace | brOverrun | brKick =>
    cases he
    simp [decode, decodeA, readByte]
  case busSetup | busOut | busIn | busReset | busSuspend | busWakeup =>
    cases he
    simp [decode, decodeB, readByte]
  case dispatch w =>
    cases he
    obtain ⟨hok, hnone⟩ : eventWordOk w = true ∧ singleEvent w = none := by simpa [Instr.wellFormed] using hw
    exact decodeE_bytesLe16 (by rw [decodeEventWord_eq, if_pos hok, hnone]; rfl) rest
  case evReset | evSuspend | evWakeup | evEp0In | evEp0Setup | evEp0Out | evEp1Out | evEp1In | evKick =>
    cases he
    exact decodeE_bytesLe16 rfl rest
  case reqGetStatus | reqSetAddress | reqGetDescriptor | reqSetConfiguration | reqSetLineCoding | reqGetLineCoding |
      reqSetControlLineState =>
    cases he
    exact decodeS_setupBytes _ _ _ _ _ rest
  case reqUnsupported rt rq _ _ _ =>
    cases he
    obtain hu : selectRequest rt rq = .unsupported := by simpa [Instr.wellFormed] using hw
    rw [decode, decodeS_setupBytes, hu]
    rfl
  case ctrlSetup | ctrlInDone | ctrlOutDone | bulkOutDone | bulkInDone | bulkKick => cases he

theorem decodeExact_of_decode {f : Format} {bs : List Byte} {i : Instr} (h : decode f bs = .ok (i, [])) :
    decodeExact f bs = .ok i := by
  rw [decodeExact, h]

theorem decodeExact_encode {i : Instr} {f : Format} {bytes : List Byte} (hw : i.wellFormed = true)
    (he : encode i = some (f, bytes)) : decodeExact f bytes = .ok i :=
  decodeExact_of_decode (by simpa using decode_encode hw he [])

/-- The bodies of handlers have no encoding (log 16). -/
theorem encode_eq_none_iff (i : Instr) :
    encode i = none ↔ i = .ctrlSetup ∨ i = .ctrlInDone ∨ i = .ctrlOutDone ∨ i = .bulkOutDone ∨ i = .bulkInDone
      ∨ i = .bulkKick := by
  cases i <;> simp [encode]

/-- Settles O1: each operation by its format, with nothing after the encoder's bytes. -/
theorem decodeUndoesEncode : Obligations.DecodeUndoesEncode :=
  ⟨fun _ _ _ => decodeExact_encode, encode_eq_none_iff⟩

/-! ## Encoding what was decoded -/

/-- The front of a byte string up to `rest` is the encoding of a well-formed operation on a format. -/
def Encodes (f : Format) (i : Instr) (bs rest : List Byte) : Prop :=
  i.wellFormed = true ∧ ∃ used, encode i = some (f, used) ∧ bs = used ++ rest

theorem encodes_of_eq {f : Format} {i : Instr} {bs rest used : List Byte} (hw : i.wellFormed = true)
    (he : encode i = some (f, used)) (hb : bs = used ++ rest) : Encodes f i bs rest :=
  ⟨hw, used, he, hb⟩

section Encodes
variable {bs rest : List Byte} {i : Instr}

theorem encodes_of_decodeP (h : decodeP bs = .ok (i, rest)) : Encodes .P i bs rest := by
  obtain ⟨op, bs, hop, h⟩ := andRead_eq_ok.1 h
  rw [readByte_eq_ok hop]
  split at h
  · subst op
    cases h
    exact encodes_of_eq rfl rfl rfl
  · cases h

theorem encodes_of_decodeC (h : decodeC bs = .ok (i, rest)) : Encodes .C i bs rest := by
  obtain ⟨op, bs, hop, h⟩ := andRead_eq_ok.1 h
  rw [readByte_eq_ok hop]
  split at h
  · subst op
    simp only [andRead_eq_ok] at h
    obtain ⟨ep, _, hep, tx, _, htx, rx, _, hrx, m, _, hm, ⟨⟩⟩ := h
    rw [readEp_eq_ok hep, readHalf_eq_ok htx, readHalf_eq_ok hrx, readHalf_eq_ok hm]
    exact encodes_of_eq rfl rfl rfl
  split at h
  · subst op
    simp only [andRead_eq_ok] at h
    obtain ⟨ep, _, hep, n, _, hn, ⟨⟩⟩ := h
    rw [readEp_eq_ok hep, readHalf_eq_ok hn]
    exact encodes_of_eq rfl rfl rfl
  split at h
  · subst op
    obtain ⟨ep, _, hep, ⟨⟩⟩ := andRead_eq_ok.1 h
    rw [readEp_eq_ok hep]
    exact encodes_of_eq rfl rfl rfl
  split at h
  · subst op
    simp only [andRead_eq_ok] at h
    obtain ⟨ep, _, hep, ty, _, hty, tx, _, htx, rx, _, hrx, ⟨⟩⟩ := h
    rw [readEp_eq_ok hep, readEpType_eq_ok hty, readStatus_eq_ok htx, readStatus_eq_ok hrx]
    exact encodes_of_eq rfl rfl rfl
  split at h
  · subst op
    simp only [andRead_eq_ok] at h
    obtain ⟨ep, _, hep, d, _, hd, st, _, hst, ⟨⟩⟩ := h
    rw [readEp_eq_ok hep, readDir_eq_ok hd, readStatus_eq_ok hst]
    exact encodes_of_eq rfl rfl rfl
  split at h
  · subst op
    simp only [andRead_eq_ok] at h
    obtain ⟨ep, _, hep, d, _, hd, ⟨⟩⟩ := h
    rw [readEp_eq_ok hep, readDir_eq_ok hd]
    exact encodes_of_eq rfl rfl rfl
  · cases h

theorem encodes_of_decodeA (h : decodeA bs = .ok (i, rest)) : Encodes .A i bs rest := by
  obtain ⟨op, bs, hop, h⟩ := andRead_eq_ok.1 h
  rw [readByte_eq_ok hop]
  split at h
  · subst op
    obtain ⟨data, _, hdata, ⟨⟩⟩ := andRead_eq_ok.1 h
    rw [readString_eq_ok hdata]
    exact encodes_of_eq rfl rfl rfl
  split at h
  · subst op
    obtain ⟨m, _, hm, ⟨⟩⟩ := andRead_eq_ok.1 h
    rw [readNumber_eq_ok hm]
    exact encodes_of_eq rfl rfl rfl
  repeat' split at h
  all_goals cases h <;> subst op <;> exact encodes_of_eq rfl rfl rfl

theorem encodes_of_decodeB (h : decodeB bs = .ok (i, rest)) : Encodes .B i bs rest := by
  obtain ⟨op, bs, hop, h⟩ := andRead_eq_ok.1 h
  rw [readByte_eq_ok hop]
  split at h
  · subst op
    simp only [andRead_eq_ok] at h
    obtain ⟨addr, _, haddr, endp, _, hendp, data, _, hdata, ⟨⟩⟩ := h
    rw [readAddr_eq_ok haddr, readEndp_eq_ok hendp, readString_eq_ok hdata]
    exact encodes_of_eq rfl rfl rfl
  split at h
  · subst op
    simp only [andRead_eq_ok] at h
    obtain ⟨addr, _, haddr, endp, _, hendp, tog, _, htog, data, _, hdata, ⟨⟩⟩ := h
    rw [readAddr_eq_ok haddr, readEndp_eq_ok hendp, readBool_eq_ok htog, readString_eq_ok hdata]
    exact encodes_of_eq rfl rfl rfl
  split at h
  · subst op
    simp only [andRead_eq_ok] at h
    obtain ⟨addr, _, haddr, endp, _, hendp, ack, _, hack, ⟨⟩⟩ := h
    rw [readAddr_eq_ok haddr, readEndp_eq_ok hendp, readBool_eq_ok hack]
    exact encodes_of_eq rfl rfl rfl
  repeat' split at h
  all_goals cases h <;> subst op <;> exact encodes_of_eq rfl rfl rfl

theorem encodes_of_decodeE (h : decodeE bs = .ok (i, rest)) : Encodes .E i bs rest := by
  obtain ⟨w, bs, hw, h⟩ := andRead_eq_ok.1 h
  rw [readHalf_eq_ok hw]
  rw [decodeEventWord_eq] at h
  by_cases hok : eventWordOk w = true
  · rw [if_pos hok] at h
    cases h
    cases hs : singleEvent w with
    | some i =>
      obtain ⟨hwf, henc⟩ := encode_of_singleEvent hs
      exact encodes_of_eq hwf henc rfl
    | none => exact encodes_of_eq (by simp [Instr.wellFormed, hok, hs]) rfl rfl
  · rw [if_neg hok] at h
    cases h

theorem encodes_of_decodeS (h : decodeS bs = .ok (i, rest)) : Encodes .S i bs rest := by
  obtain ⟨rt, rq, value, index, length, rfl, rfl⟩ := decodeS_eq_ok h
  obtain ⟨hwf, henc⟩ := encode_requestInstr rt rq value index length
  exact encodes_of_eq hwf henc rfl

end Encodes

/-- Settles O2: what each reader read is what the encoder writes, format by format. -/
theorem encodeUndoesDecode : Obligations.EncodeUndoesDecode := by
  intro f bs rest i h
  cases f
  case P => exact encodes_of_decodeP h
  case C => exact encodes_of_decodeC h
  case A => exact encodes_of_decodeA h
  case B => exact encodes_of_decodeB h
  case E => exact encodes_of_decodeE h
  case S => exact encodes_of_decodeS h

/-! ## Requests, and words that name nothing -/

/-- Settles O3: the eight bytes are the `setupBytes` of their fields; format S reads no other number of bytes. -/
theorem setupPacketSelectsTheRequest : Obligations.SetupPacketSelectsTheRequest := by
  refine ⟨fun rt rq v0 v1 i0 i1 l0 l1 => ?_, fun p hp => ?_⟩
  · have hb : [rt, rq, v0, v1, i0, i1, l0, l1] = setupBytes rt rq (v1 ++ v0) (i1 ++ i0) (l1 ++ l0) := by
      simp [setupBytes, bytesLe16_append]
    have hd := decodeS_setupBytes rt rq (v1 ++ v0) (i1 ++ i0) (l1 ++ l0) []
    rw [List.append_nil, ← hb] at hd
    refine (decodeExact_of_decode (f := .S) hd).trans (congrArg Except.ok ?_)
    unfold selectRequest
    split_ifs <;> rfl
  · cases hd : decodeExact .S p with
    | error e => exact ⟨e, rfl⟩
    | ok i =>
      obtain ⟨rt, rq, value, index, length, rfl, -⟩ := decodeS_eq_ok (decodeExact_eq_ok hd)
      exact absurd (by simp [length_setupBytes]) hp

theorem decodeEventWord_eq_error_iff (w : Half) :
    decodeEventWord w = .error .reservedEventWord ↔ w &&& 0xF8C0 ≠ 0 ∨ w = 0 ∨ w = 0x0010 := by
  rw [decodeEventWord_eq]
  split
  · rename_i hok
    obtain ⟨hr, hz, hsetup⟩ := (eventWordOk_iff w).1 hok
    exact iff_of_false (fun he => nomatch he) (by tauto)
  · rename_i hok
    rw [eventWordOk_iff] at hok
    exact ⟨fun _ => by tauto, fun _ => rfl⟩

/-- A word that can occur and is not one event's own is a `DISPATCH` (log 11). -/
theorem decodeEventWord_of_several {w : Half} (hr : w &&& 0xF8C0 = 0)
    (hw : w ∉ ([0, 0x0010, 0x0100, 0x0200, 0x0400, 0x0002, 0x0011, 0x0001, 0x0004, 0x0008, 0x0020] : List Half)) :
    decodeEventWord w = .ok (.dispatch w) := by
  have hok : eventWordOk w = true :=
    (eventWordOk_iff w).2 ⟨hr, fun h => hw (by simp [h]), fun h => hw (by simp [h])⟩
  rw [decodeEventWord_eq, if_pos hok, singleEvent_eq_none hw]
  rfl

section Refused
variable {b : Byte} (bs : List Byte)

theorem decodeP_unknown (h : b ≠ 0x00) : decode .P (b :: bs) = .error .unknownOperation := by
  simp only [decode, decodeP, readByte, andRead_ok, h, if_false]

theorem decodeC_unknown (h : b ∉ ([0x10, 0x11, 0x12, 0x20, 0x21, 0x22] : List Byte)) :
    decode .C (b :: bs) = .error .unknownOperation := by
  simp only [List.mem_cons, List.not_mem_nil, or_false, not_or] at h
  simp only [decode, decodeC, readByte, andRead_ok, h, if_false]

theorem decodeA_unknown (h : b ∉ ([0x30, 0x31, 0x32, 0x33, 0x34, 0x35] : List Byte)) :
    decode .A (b :: bs) = .error .unknownOperation := by
  simp only [List.mem_cons, List.not_mem_nil, or_false, not_or] at h
  simp only [decode, decodeA, readByte, andRead_ok, h, if_false]

theorem decodeB_unknown (h : b ∉ ([0x5D, 0x51, 0x59, 0x60, 0x61, 0x62] : List Byte)) :
    decode .B (b :: bs) = .error .unknownOperation := by
  simp only [List.mem_cons, List.not_mem_nil, or_false, not_or] at h
  simp only [decode, decodeB, readByte, andRead_ok, h, if_false]

/-- A byte above a code is not that code. -/
theorem ne_of_toNat_lt {c : Byte} (h : c.toNat < b.toNat) : b ≠ c := fun e => by
  rw [e] at h
  exact lt_irrefl _ h

theorem readEp_badOperand (h : 1 < b.toNat) : readEp (b :: bs) = .error .badOperand := by
  have h0 : b ≠ 0 := ne_of_toNat_lt (Nat.zero_lt_of_lt h)
  have h1 : b ≠ 1 := ne_of_toNat_lt h
  simp only [readEp, h0, h1, if_false]

theorem readDir_badOperand (h : 1 < b.toNat) : readDir (b :: bs) = .error .badOperand := by
  have h0 : b ≠ 0 := ne_of_toNat_lt (Nat.zero_lt_of_lt h)
  have h1 : b ≠ 1 := ne_of_toNat_lt h
  simp only [readDir, h0, h1, if_false]

theorem readStatus_badOperand (h : 3 < b.toNat) : readStatus (b :: bs) = .error .badOperand := by
  have h0 : b ≠ 0 := ne_of_toNat_lt (Nat.zero_lt_of_lt h)
  have h1 : b ≠ 1 := ne_of_toNat_lt (lt_trans (by decide) h)
  have h2 : b ≠ 2 := ne_of_toNat_lt (lt_trans (by decide) h)
  have h3 : b ≠ 3 := ne_of_toNat_lt h
  simp only [readStatus, h0, h1, h2, h3, if_false]

theorem readAddr_badOperand (h : 127 < b.toNat) : readAddr (b :: bs) = .error .badOperand :=
  if_neg (by omega)

theorem readEndp_badOperand (h : 15 < b.toNat) : readEndp (b :: bs) = .error .badOperand :=
  if_neg (by omega)

end Refused

/-- Settles O4: ISTAT words by `decodeEventWord_eq`, unknown operation bytes by format, operands by their reader. -/
theorem wordsThatNameNothingAreRefused : Obligations.WordsThatNameNothingAreRefused := by
  refine ⟨decodeEventWord_eq_error_iff, rfl, rfl, rfl, rfl, rfl, rfl, rfl, rfl, rfl,
    fun _ => decodeEventWord_of_several,
    fun op bs => ⟨decodeP_unknown bs, decodeC_unknown bs, decodeA_unknown bs, decodeB_unknown bs⟩,
    fun b b1 b2 bs => ⟨fun h => ?ep, fun h => ?dir, fun h => ?status, fun h => ?addr, fun h => ?endp⟩⟩
  case ep => simp [decode, decodeC, readByte, readEp_badOperand bs h]
  case dir => simp [decode, decodeC, readByte, readEp, readDir_badOperand bs h]
  case status => simp [decode, decodeC, readByte, readEp, readDir, readStatus_badOperand bs h]
  case addr => simp [decode, decodeB, readByte, readAddr_badOperand _ h]
  case endp => simp [decode, decodeB, readByte, readAddr, readEndp_badOperand _ h]

/-- Settles O5: each word is the encoder's word of its operation, and decoding undoes encoding. -/
theorem specWordsDecodeToTheirOperations : Obligations.SpecWordsDecodeToTheirOperations :=
  ⟨decodeExact_encode rfl rfl, decodeExact_encode rfl rfl, decodeExact_encode rfl rfl, decodeExact_encode rfl rfl,
    decodeExact_encode rfl rfl, decodeExact_encode rfl rfl⟩

/-! ## The step -/

section Request
variable {s : State} {f : Format} {bytes : List Byte} {rest : List Input}

theorem nextOp_of_request {i : Instr} (hq : s.inputs = .request f bytes :: rest) (hd : decodeExact f bytes = .ok i) :
    nextOp s = .run i { s with inputs := rest } := by
  simp [nextOp, hq, hd]

theorem nextOp_of_undecodable {e : DecodeError} (hq : s.inputs = .request f bytes :: rest)
    (hd : decodeExact f bytes = .error e) : nextOp s = .bad e := by
  simp [nextOp, hq, hd]

end Request

/-- Settles O7: after `INIT` nothing is stopped at the gate, so what the head of the queue decodes to is run. -/
theorem stepRunsDecodedInstruction : Obligations.StepRunsDecodedInstruction := by
  intro s f bytes rest hl hq
  refine ⟨fun i hd => step_of_run (nextOp_of_request hq hd) hl, fun e hd => ?_⟩
  simp [step, nextOp_of_undecodable hq hd]

end Sys2Proof.Machine
end

section
/-! The commands on the buffer descriptor table (spec/40_bdt.md): what `LayoutOk` means for sets of addresses (O11),
`BDT.CONFIGURE` (O12) and the two accessors of the counts (O13). -/

namespace Sys2Proof.Machine

/-! ## `LayoutOk` -/

/-- If neither region is empty and neither ends before the other begins, the later of their first addresses lies in
both. -/
theorem disjoint_iff {a n b m : Nat} :
    disjoint a n b m = true ↔ ∀ x, ¬ ((a ≤ x ∧ x < a + n) ∧ (b ≤ x ∧ x < b + m)) := by
  simp only [disjoint, Bool.or_eq_true, decide_eq_true_eq]
  constructor
  · intro h x
    omega
  · intro h
    have hmax := h (max a b)
    omega

/-- A region has no address in either region of a table entry: condition (f) of R132 for that region. -/
theorem disjoint_entry_iff {a n : Nat} {o : BdtEntry} :
    (disjoint a n o.txOffset.toNat Config.maxPacket = true
      ∧ disjoint a n o.rxOffset.toNat o.rxMaxCount.toNat = true)
    ↔ ∀ x, a ≤ x ∧ x < a + n → ¬ inTxRegion o x ∧ ¬ inRxRegion o x := by
  rw [disjoint_iff, disjoint_iff, ← forall_and]
  exact forall_congr' fun _ => (and_congr not_and not_and).trans imp_and.symm

/-- Settles O11: the tests of (a) to (d) are the conditions themselves, (e) and (f) become sets of addresses. -/
theorem layoutOkSaysTheSixConditions : Obligations.LayoutOkSaysTheSixConditions := by
  intro s e tx rx m o
  have hf : (∀ a, (tx.toNat ≤ a ∧ a < tx.toNat + 64) ∨ (rx.toNat ≤ a ∧ a < rx.toNat + m.toNat) →
        ¬ inTxRegion o a ∧ ¬ inRxRegion o a) ↔
      (disjoint tx.toNat Config.maxPacket o.txOffset.toNat Config.maxPacket = true
        ∧ disjoint tx.toNat Config.maxPacket o.rxOffset.toNat o.rxMaxCount.toNat = true)
      ∧ (disjoint rx.toNat m.toNat o.txOffset.toNat Config.maxPacket = true
        ∧ disjoint rx.toNat m.toNat o.rxOffset.toNat o.rxMaxCount.toNat = true) := by
    rw [disjoint_entry_iff, disjoint_entry_iff, ← forall_and]
    exact forall_congr' fun _ => or_imp
  rw [hf, ← disjoint_iff]
  simp only [layoutOk, Bool.and_eq_true, Bool.or_eq_true, Bool.not_eq_true', decide_eq_true_eq, and_assoc,
    ← Bool.not_eq_true, ← imp_iff_not_or]
  rfl

/-! ## `BDT.CONFIGURE` -/

section Configure
variable {s : State} {e : Ep} {tx rx m : Half}

theorem configureTable_of_layoutOk (h : layoutOk s e tx rx m = true) :
    configureTable e tx rx m s = (s.setBdt e ⟨tx, 0, rx, m, 0⟩).setBdtConfigured e true :=
  if_pos h

theorem configureTable_of_not_layoutOk (h : layoutOk s e tx rx m = false) :
    configureTable e tx rx m s = { s with fatal := true } :=
  if_neg (by simp [h])

theorem execBdtConfigure_inside (hl : s.lifecycle = .initialising) :
    execBdtConfigure e tx rx m s = .next { configureTable e tx rx m s with
      cmdResult := if layoutOk s e tx rx m then .ok else .layoutError } :=
  if_pos hl

theorem execBdtConfigure_outside (hl : s.lifecycle ≠ .initialising) :
    execBdtConfigure e tx rx m s = .refused .configureOutsideInit :=
  if_neg hl

end Configure

/-- Settles O12: inside `INIT` the layout alone decides which of the two states `configureTable` answers. -/
theorem bdtConfigureReservesRegionsOrRaises : Obligations.BdtConfigureReservesRegionsOrRaises := by
  intro s e tx rx m
  refine ⟨fun hl hok => ?_, fun hl hok => ?_, execBdtConfigure_outside⟩
  · rw [← configureTable_of_layoutOk hok]
    exact (execBdtConfigure_inside hl).trans (by rw [if_pos hok])
  · exact (execBdtConfigure_inside hl).trans (by rw [configureTable_of_not_layoutOk hok, hok]; rfl)

/-! ## The counts -/

section Counts
variable {s : State} {e : Ep} {n : Half}

theorem setTxCount_too_large (h : s.bdtConfigured e = true) (hn : 64 < n.toNat) :
    setTxCount e n s = .refused .txCountTooLarge :=
  (if_neg (by simp [h])).trans (if_pos hn)

theorem setTxCount_of_unconfigured (h : s.bdtConfigured e = false) :
    setTxCount e n s = .refused .entryNotConfigured :=
  if_pos h

theorem readRxCount_of_unconfigured (h : s.bdtConfigured e = false) :
    readRxCount e s = .error .entryNotConfigured :=
  if_pos h

theorem execBdtReadRxCount_of_configured (h : s.bdtConfigured e = true) :
    execBdtReadRxCount e s = .next { s with cmdResult := .count (s.bdt e).rxCount } :=
  withValue_of_ok (readRxCount_of_configured h) _

theorem execBdtReadRxCount_of_unconfigured (h : s.bdtConfigured e = false) :
    execBdtReadRxCount e s = .refused .entryNotConfigured :=
  withValue_eq_refused.2 (.inl (readRxCount_of_unconfigured h))

end Counts

/-- Settles O13: each accessor on a configured entry and on one that is not. -/
theorem tableCountsAreWrittenAndReadAlone : Obligations.TableCountsAreWrittenAndReadAlone :=
  ⟨fun _ _ _ => ⟨setTxCount_of_configured, setTxCount_too_large, setTxCount_of_unconfigured⟩,
    fun _ _ => ⟨execBdtReadRxCount_of_configured, execBdtReadRxCount_of_unconfigured⟩⟩

end Sys2Proof.Machine
end

section
/-! The commands on the endpoint registers: what each writes (O14 to O16), and that on an endpoint that is not
configured they are refused (spec/41_endpoint.md R144), and with them all work of endpoint 0 (O35). -/

namespace Sys2Proof.Machine

/-! ## Commands on the endpoint registers -/

section Registers
variable {s : State} {e : Ep}

theorem setStatus_of_unconfigured (h : (s.ep e).configured = false) (d : Dir) (st : Status) :
    setStatus e d st s = .refused .endpointNotConfigured :=
  if_pos h

theorem toggleData_of_unconfigured (h : (s.ep e).configured = false) (d : Dir) :
    toggleData e d s = .refused .endpointNotConfigured :=
  if_pos h

@[simp] theorem setEp_setEp_same (s : State) (e : Ep) (x y : Endpoint) : (s.setEp e x).setEp e y = s.setEp e y := by
  cases e <;> rfl

@[simp] theorem setEp_ep_self (s : State) (e : Ep) : s.setEp e (s.ep e) = s := by
  cases e <;> rfl

/-- Flipping the same toggle bit again restores the state. -/
theorem toggleData_setEp_flip (h : (s.ep e).configured = true) (d : Dir) :
    toggleData e d (s.setEp e ((s.ep e).flip d)) = .next s := by
  have hc : ((s.setEp e ((s.ep e).flip d)).ep e).configured = true := by
    rw [ep_setEp_same, flip_configured, h]
  rw [toggleData_of_configured d hc, ep_setEp_same, flip_flip, setEp_setEp_same, setEp_ep_self]

end Registers

/-- Settles O14: `EP.CONFIGURE` writes these fields unconditionally. -/
theorem epConfigureWritesTheRecord : Obligations.EpConfigureWritesTheRecord :=
  fun _ _ _ _ _ => rfl

/-- Settles O15: `configured` alone decides, and on each direction the request is the one field written. -/
theorem setStatusOnlyRequests : Obligations.SetStatusOnlyRequests :=
  fun _ _ st =>
    ⟨fun h => ⟨setStatus_of_configured .tx st h, setStatus_of_configured .rx st h⟩,
      fun h d => ⟨setStatus_of_unconfigured h d st, toggleData_of_unconfigured h d⟩⟩

/-- Settles O16: one flip on each direction, and a second flip undoes it. -/
theorem toggleFlipsOneBit : Obligations.ToggleFlipsOneBit :=
  fun _ _ =>
    ⟨fun h => ⟨toggleData_of_configured .tx h, toggleData_of_configured .rx h,
        fun d => ⟨_, toggleData_of_configured d h, toggleData_setEp_flip h d⟩⟩,
      toggleData_of_unconfigured⟩

/-! ## Endpoint 0 not configured -/

section Unconfigured
variable {s : State}

/-! ### Sequencing -/

theorem andThen_refuses_of_first {o : Result} {f : State → Result} (ho : ∃ r, o = .refused r) :
    ∃ r, andThen o f = .refused r :=
  ho.imp fun _ hr => andThen_eq_refused.2 (.inl hr)

/-- A sequence whose first part raises no fault is refused if its second part is, wherever the first part leads. -/
theorem andThen_refuses {o : Result} {f : State → Result} (ho : ∀ r, o ≠ .fault r)
    (hf : ∀ u, o = .next u → ∃ r, f u = .refused r) : ∃ r, andThen o f = .refused r := by
  cases o with
  | next u => exact hf u rfl
  | fault r => exact absurd rfl (ho r)
  | refused r => exact ⟨r, rfl⟩

theorem setTxCount_ne_fault {e : Ep} {n : Half} (r : Fault) : setTxCount e n s ≠ .fault r := by
  unfold setTxCount
  split
  · exact nofun
  · split <;> exact nofun

theorem pmaWrite_ne_fault {a : Nat} {bs : List Byte} (r : Fault) : pmaWrite a bs s ≠ .fault r := by
  unfold pmaWrite
  dsimp only
  split
  · split <;> exact nofun
  · exact nofun

/-! ### The parts of a control transfer: each ends in a command that is refused -/

theorem setStatus0_refuses {d : Dir} {st : Status} (h : s.ep0.configured = false) :
    ∃ r, setStatus .ep0 d st s = .refused r :=
  ⟨_, setStatus_of_unconfigured (e := .ep0) h d st⟩

theorem toggle0_refuses {d : Dir} (h : s.ep0.configured = false) : ∃ r, toggleData .ep0 d s = .refused r :=
  ⟨_, toggleData_of_unconfigured (e := .ep0) h d⟩

theorem stall0_refuses (h : s.ep0.configured = false) : ∃ r, stall0 s = .refused r :=
  andThen_refuses_of_first (setStatus0_refuses h)

theorem abortTransfer_refuses (h : s.ep0.configured = false) : ∃ r, abortTransfer s = .refused r :=
  andThen_refuses_of_first (setStatus0_refuses h)

/-- Arming a packet: the count changes the table alone, and then the status cannot be requested. -/
theorem armPacket0_refuses {n : Half} (h : s.ep0.configured = false) :
    ∃ r, (andThen (setTxCount .ep0 n s) fun s => setStatus .ep0 .tx .valid s) = .refused r := by
  refine andThen_refuses setTxCount_ne_fault fun u hu => ?_
  obtain ⟨-, -, rfl⟩ := setTxCount_eq_next.1 hu
  exact setStatus0_refuses h

theorem startStatusIn_refuses {c : ControlTransfer} (h : s.ep0.configured = false) :
    ∃ r, startStatusIn c s = .refused r :=
  armPacket0_refuses h

theorem sendChunk_refuses {c : ControlTransfer} (h : s.ep0.configured = false) :
    ∃ r, sendChunk c s = .refused r := by
  refine andThen_refuses pmaWrite_ne_fault fun u hu => ?_
  obtain ⟨-, rfl⟩ := pmaWrite_eq_next.1 hu
  exact armPacket0_refuses h

theorem startDataIn_refuses {resp : List Byte} {c : ControlTransfer} (h : s.ep0.configured = false) :
    ∃ r, startDataIn resp c s = .refused r := by
  unfold startDataIn
  split
  · exact startStatusIn_refuses h
  · exact andThen_refuses_of_first (sendChunk_refuses h)

/-- A request that stalls on bad operands is refused either way. -/
theorem stallOr_refuses {p : Prop} [Decidable p] {reason : ProtocolReason} {o : Result}
    (h : s.ep0.configured = false) (ho : ∃ r, o = .refused r) :
    ∃ r, (if p then raiseProtocolError reason s else o) = .refused r := by
  split
  · exact stall0_refuses h
  · exact ho

/-! ### Bodies, requests and handlers -/

theorem isEp0Work_refuses (h : s.ep0.configured = false) {i : Instr} (hi : isEp0Work i = true) :
    ∃ r, exec i s = .refused r := by
  cases i
  case ctrlSetup => exact andThen_refuses_of_first (abortTransfer_refuses h)
  case ctrlInDone | ctrlOutDone => exact andThen_refuses_of_first (toggle0_refuses h)
  case reqGetStatus | reqGetLineCoding => exact startDataIn_refuses h
  case reqSetAddress => exact stallOr_refuses h (startStatusIn_refuses h)
  case reqGetDescriptor =>
    simp only [exec, execReqGetDescriptor]
    split
    · exact stall0_refuses h
    · exact startDataIn_refuses h
  case reqSetConfiguration => exact stallOr_refuses h (startStatusIn_refuses h)
  case reqSetLineCoding => exact stallOr_refuses h (setStatus0_refuses h)
  case reqSetControlLineState => exact stallOr_refuses h (startStatusIn_refuses h)
  case reqUnsupported => exact stall0_refuses h
  all_goals cases hi

theorem handleEvent_refuses {e : Event} {body : State → Result} (hf : s.fatal = false)
    (hb : ∃ r, body s = .refused r) : ∃ r, handleEvent e body s = .refused r := by
  simp only [handleEvent, hf, Bool.false_eq_true, if_false]
  exact andThen_refuses_of_first hb

end Unconfigured

/-- Settles O35: every body and request comes to a command on endpoint 0 that R144 refuses, and a handler is refused
with its body. -/
theorem endpointZeroWorkNeedsItConfigured : Obligations.EndpointZeroWorkNeedsItConfigured := by
  refine fun i s h => ⟨isEp0Work_refuses h, fun hf hi => ?_⟩
  obtain rfl | rfl | rfl := hi
  · exact handleEvent_refuses hf (isEp0Work_refuses h (i := .ctrlInDone) rfl)
  · exact handleEvent_refuses hf (isEp0Work_refuses h (i := .ctrlSetup) rfl)
  · exact handleEvent_refuses hf (isEp0Work_refuses h (i := .ctrlOutDone) rfl)

end Sys2Proof.Machine
end

section
/-! The requests and the bodies of endpoint 0 (spec/42_control.md): where each of their branches leaves the block
(O32 to O34, O36 to O42). -/

namespace Sys2Proof.Machine

section Control
variable {s : State} {c : ControlTransfer}

/-! ## What the bodies share: the stall, the received packet, the toggle -/

theorem raiseProtocolError_of_configured (reason : ProtocolReason) (h : s.ep0.configured = true) :
    raiseProtocolError reason s = .next s.stalledEp0 :=
  stall0_of_configured h

/-- A received packet of a known length can be read from its buffer. -/
theorem pmaRead_rxCount (h : s.ep0Ready) {n : Half} (hn : s.bdt0.rxCount = n) :
    pmaRead s.bdt0.rxOffset.toNat n.toNat s = .ok (s.pmaBytes s.bdt0.rxOffset.toNat n.toNat) := by
  obtain ⟨-, -, he⟩ := h
  exact pmaRead_rx he (hn ▸ rxCount_le he)

/-- The block after `EP.TOGGLE` of one direction of endpoint 0, with which both completions begin. -/
def State.ep0Flipped (d : Dir) (s : State) : State := s.setEp .ep0 (s.ep0.flip d)

theorem toggleData_ep0 (h : s.ep0.configured = true) (d : Dir) : toggleData .ep0 d s = .next (s.ep0Flipped d) :=
  toggleData_of_configured (e := .ep0) d h

@[simp] theorem ep0Flipped_ct (d : Dir) (s : State) : (s.ep0Flipped d).ct = s.ct := rfl

theorem ep0Ready_ep0Flipped (h : s.ep0Ready) (d : Dir) : (s.ep0Flipped d).ep0Ready := by
  obtain ⟨hc, hb, he⟩ := h
  exact ⟨(flip_configured s.ep0 d).trans hc, hb, he⟩

/-! ## `CTRL.SETUP` -/

theorem eq_setupBytes {p : List Byte} (h : p.length = 8) :
    p = setupBytes (byteAt p 0) (byteAt p 1) (le16 p 2) (le16 p 4) (le16 p 6) := by
  match p, h with
  | [_, _, _, _, _, _, _, _], _ => simp [setupBytes, le16, byteAt, bytesLe16_append]

/-- What step 5 of `CTRL.SETUP` performs is the operation that the packet decodes to. -/
theorem exists_decodeExact_performRequest {p : List Byte} (h : p.length = 8) :
    ∃ i, decodeExact .S p = .ok i
      ∧ ∀ s, performRequest (byteAt p 0) (byteAt p 1) (le16 p 2) (le16 p 4) (le16 p 6) s = exec i s := by
  refine ⟨_, decodeExact_of_decode (f := .S) ?_, performRequest_eq_exec _ _ _ _ _⟩
  have hd := decodeS_setupBytes (byteAt p 0) (byteAt p 1) (le16 p 2) (le16 p 4) (le16 p 6) []
  rwa [List.append_nil, ← eq_setupBytes h] at hd

/-- `CTRL.SETUP` up to the length check of its step 3. -/
theorem execCtrlSetup_of_ready (h : s.ep0Ready) :
    execCtrlSetup s = if s.bdt0.rxCount ≠ 8 then raiseProtocolError .badSetupLength s.aborted
      else withValue (pmaRead s.bdt0.rxOffset.toNat Config.setupLen s.aborted) fun p =>
        performRequest (byteAt p 0) (byteAt p 1) (le16 p 2) (le16 p 4) (le16 p 6) s.aborted := by
  obtain ⟨hc, hb, -⟩ := h
  exact (andThen_of_next (abortTransfer_of_configured hc) _).trans
    (withValue_of_ok (readRxCount_of_configured (e := .ep0) (s := s.aborted) hb) _)

theorem execCtrlSetup_of_badLength (h : s.ep0Ready) (h8 : s.bdt0.rxCount ≠ 8) :
    execCtrlSetup s = .next s.aborted.stalledEp0 :=
  (execCtrlSetup_of_ready h).trans ((if_pos h8).trans (raiseProtocolError_of_configured _ h.1))

theorem execCtrlSetup_of_setupLength (h : s.ep0Ready) (h8 : s.bdt0.rxCount = 8) :
    let p := s.pmaBytes s.bdt0.rxOffset.toNat 8
    execCtrlSetup s = performRequest (byteAt p 0) (byteAt p 1) (le16 p 2) (le16 p 4) (le16 p 6) s.aborted :=
  (execCtrlSetup_of_ready h).trans ((if_neg (not_not.2 h8)).trans
    (withValue_of_ok (pmaRead_rxCount (s := s.aborted) h h8) _))

/-! ## `CTRL.IN_DONE` -/

theorem advanceDataIn_of_more (h : s.ep0Ready) (hm : c.pos + c.lastLen < c.data.length) :
    advanceDataIn c s = .next (s.chunkSent { c with pos := c.pos + c.lastLen }) :=
  (if_pos hm).trans (sendChunk_of_ready h)

/-- After a full packet a reply shorter than `length` is ended by a zero-length packet. -/
theorem advanceDataIn_of_full (h : s.ep0Ready) (hd : c.data.length ≤ c.pos + c.lastLen)
    (hf : c.lastLen = 64 ∧ c.data.length < c.length.toNat) :
    advanceDataIn c s = .next { s with
      ct := some { c with pos := c.pos + c.lastLen, lastLen := 0 }
      bdt0 := { s.bdt0 with txCount := 0 }
      ep0 := { s.ep0 with txStatReq := some .valid } } := by
  obtain ⟨hc, hb, -⟩ := h
  refine (if_neg (Nat.not_lt.2 hd)).trans ((if_pos hf).trans ?_)
  exact (andThen_of_next (setTxCount_of_configured (e := .ep0)
      (s := { s with ct := some { c with pos := c.pos + c.lastLen, lastLen := 0 } }) hb (by decide)) _).trans
    (setStatus_of_configured (e := .ep0) .tx .valid hc)

theorem advanceDataIn_of_last (hd : c.data.length ≤ c.pos + c.lastLen)
    (hf : ¬ (c.lastLen = 64 ∧ c.data.length < c.length.toNat)) :
    advanceDataIn c s = .next { s with ct := some { c with pos := c.pos + c.lastLen, phase := .statusStage } } :=
  (if_neg (Nat.not_lt.2 hd)).trans (if_neg hf)

theorem applyStagedAddress_of_none (hp : s.pendingAddr = none) : applyStagedAddress s = s := by
  rw [applyStagedAddress, hp]

theorem applyStagedAddress_of_some {a : BitVec 7} (hp : s.pendingAddr = some a) :
    applyStagedAddress s = { s with
      devAddr := a, devState := if a ≠ 0 then .addressed else s.devState, pendingAddr := none } := by
  rw [applyStagedAddress, hp]

theorem execCtrlInDone_of_none (h : s.ep0.configured = true) (hct : s.ct = none) :
    execCtrlInDone s = .next (s.ep0Flipped .tx) := by
  rw [execCtrlInDone, andThen_of_next (toggleData_ep0 h .tx), ep0Flipped_ct, hct]

theorem stage_ne_dataIn_iff {g : Stage} : g ≠ .dataIn ↔ g = .dataOut ∨ g = .noData := by
  cases g <;> decide

theorem execCtrlInDone_of_some (h : s.ep0.configured = true) (hct : s.ct = some c) :
    execCtrlInDone s =
      if c.phase = .dataStage ∧ c.stage = .dataIn then advanceDataIn c (s.ep0Flipped .tx)
      else if c.phase = .statusStage ∧ c.stage ≠ .dataIn then
        .next (finish (applyStagedAddress (s.ep0Flipped .tx)))
      else .next (s.ep0Flipped .tx) := by
  rw [execCtrlInDone, andThen_of_next (toggleData_ep0 h .tx), ep0Flipped_ct, hct]
  simp only [stage_ne_dataIn_iff]

/-! ## `CTRL.OUT_DONE` -/

theorem lineCodingOf_pmaBytes (s : State) (a : Nat) :
    lineCodingOf (s.pmaBytes a 7) = ⟨(s.pmaByte (a + 3) ++ s.pmaByte (a + 2)) ++ (s.pmaByte (a + 1) ++ s.pmaByte a),
      s.pmaByte (a + 4), s.pmaByte (a + 5), s.pmaByte (a + 6)⟩ :=
  rfl

theorem storeLineCoding_of_badLength (h : s.ep0Ready) (h7 : s.bdt0.rxCount ≠ 7) :
    storeLineCoding c s = .next s.stalledEp0 := by
  obtain ⟨hc, hb, -⟩ := h
  exact (withValue_of_ok (readRxCount_of_configured (e := .ep0) hb) _).trans
    ((if_pos h7).trans (raiseProtocolError_of_configured _ hc))

theorem storeLineCoding_of_length (h : s.ep0Ready) (h7 : s.bdt0.rxCount = 7) :
    storeLineCoding c s = .next (State.statusInArmed c
      { s with lineCoding := lineCodingOf (s.pmaBytes s.bdt0.rxOffset.toNat 7) }) := by
  obtain ⟨hc, hb, -⟩ := id h
  calc storeLineCoding c s
    _ = withValue (pmaRead s.bdt0.rxOffset.toNat Config.lineCodingLen s) fun q =>
          startStatusIn c { s with lineCoding := lineCodingOf q } :=
        (withValue_of_ok (readRxCount_of_configured (e := .ep0) hb) _).trans (if_neg (not_not.2 h7))
    _ = startStatusIn c { s with lineCoding := lineCodingOf (s.pmaBytes s.bdt0.rxOffset.toNat 7) } :=
        withValue_of_ok (pmaRead_rxCount h h7) _
    _ = _ := startStatusIn_of_ready hc hb

theorem execCtrlOutDone_of_none (h : s.ep0.configured = true) (hct : s.ct = none) :
    execCtrlOutDone s = .next (s.ep0Flipped .rx) := by
  rw [execCtrlOutDone, andThen_of_next (toggleData_ep0 h .rx), ep0Flipped_ct, hct]

theorem phase_ne_setup_iff {p : Phase} : p ≠ .setup ↔ p = .dataStage ∨ p = .statusStage := by
  cases p <;> decide

theorem execCtrlOutDone_of_some (h : s.ep0.configured = true) (hct : s.ct = some c) :
    execCtrlOutDone s =
      if c.phase = .dataStage ∧ c.stage = .dataOut then storeLineCoding c (s.ep0Flipped .rx)
      else if c.stage = .dataIn ∧ c.phase ≠ .setup then
        andThen (setStatus .ep0 .tx .nak (s.ep0Flipped .rx)) fun s => .next (finish s)
      else .next (s.ep0Flipped .rx) := by
  rw [execCtrlOutDone, andThen_of_next (toggleData_ep0 h .rx), ep0Flipped_ct, hct]
  simp only [phase_ne_setup_iff]

/-! ## `REQ.GET_DESCRIPTOR` -/

theorem execReqGetDescriptor_of_some {v i l : Half} {d : List Byte}
    (hd : s.params.descriptor (highByte v) (lowByte v) = some d) :
    execReqGetDescriptor v i l s = startDataIn d (.ofSetup 0x80 0x06 v i l) s := by
  rw [execReqGetDescriptor, hd]

theorem execReqGetDescriptor_of_none {v i l : Half}
    (hd : s.params.descriptor (highByte v) (lowByte v) = none) :
    execReqGetDescriptor v i l s = raiseProtocolError .noSuchDescriptor s := by
  rw [execReqGetDescriptor, hd]

end Control

/-! ## The bodies -/

/-- Settles O32: the abort, then the length check, then the operation the 8 bytes decode to. -/
theorem setupAbortsAndPerformsTheRequest : Obligations.SetupAbortsAndPerformsTheRequest := by
  refine fun s h => ⟨execCtrlSetup_of_badLength h, fun h8 => ?_⟩
  obtain ⟨i, hd, hp⟩ := exists_decodeExact_performRequest (length_pmaBytes s s.bdt0.rxOffset.toNat 8)
  obtain ⟨t, ht⟩ := execCtrlSetup_answers h
  have he : execCtrlSetup s = exec i s.aborted := (execCtrlSetup_of_setupLength h h8).trans (hp s.aborted)
  exact ⟨i, t, hd, he.symm.trans ht, ht⟩

/-- Settles O33: after the toggle, the three ways on from a data stage, and the end of a status stage. -/
theorem inCompletionAdvancesTheTransfer : Obligations.InCompletionAdvancesTheTransfer := by
  refine fun s h => ⟨execCtrlInDone_of_none h.1, fun c hct => ?_⟩
  have hu : (s.ep0Flipped .tx).ep0Ready := ep0Ready_ep0Flipped h .tx
  have hsome := execCtrlInDone_of_some h.1 hct
  refine ⟨fun hp hs => ?_, fun hp hs => ?_, fun hdata hstatus => ?_⟩
  · have hdata := hsome.trans (if_pos ⟨hp, hs⟩)
    exact ⟨fun hm => ⟨_, hdata.trans (advanceDataIn_of_more hu hm), chunkSent_armed _ _⟩,
      fun hd hl hn => hdata.trans (advanceDataIn_of_full hu hd ⟨hl, hn⟩),
      fun hd hf => hdata.trans (advanceDataIn_of_last hd hf)⟩
  · have hdata : ¬ (c.phase = .dataStage ∧ c.stage = .dataIn) := fun hd => hs hd.2
    have hstatus := hsome.trans ((if_neg hdata).trans (if_pos ⟨hp, hs⟩))
    refine ⟨fun hn => ?_, fun a ha => ?_⟩
    · rw [applyStagedAddress_of_none (s := s.ep0Flipped .tx) hn] at hstatus
      exact hstatus
    · rw [applyStagedAddress_of_some (s := s.ep0Flipped .tx) ha] at hstatus
      exact hstatus
  · exact hsome.trans ((if_neg hdata).trans (if_neg hstatus))

/-- Settles O34: after the toggle, the payload of a line coding, or the end of a data-in transfer. -/
theorem outCompletionEndsOrTakesLineCoding : Obligations.OutCompletionEndsOrTakesLineCoding := by
  refine fun s h => ⟨execCtrlOutDone_of_none h.1, fun c hct => ?_⟩
  have hu : (s.ep0Flipped .rx).ep0Ready := ep0Ready_ep0Flipped h .rx
  have hsome := execCtrlOutDone_of_some h.1 hct
  refine ⟨fun hp hs => ?_, fun hs hp => ?_, fun hdata hend => ?_⟩
  · have hdata := hsome.trans (if_pos ⟨hp, hs⟩)
    exact ⟨fun h7 => hdata.trans (storeLineCoding_of_badLength hu h7),
      fun h7 => hdata.trans (storeLineCoding_of_length hu h7)⟩
  · have hdata : ¬ (c.phase = .dataStage ∧ c.stage = .dataOut) := fun hd => by simp [hs] at hd
    exact hsome.trans ((if_neg hdata).trans ((if_pos ⟨hs, hp⟩).trans
      (andThen_of_next (setStatus_of_configured (e := .ep0) .tx .nak hu.1) _)))
  · exact hsome.trans ((if_neg hdata).trans (if_neg hend))

/-! ## The requests -/

/-- Settles O36: both requests are a `StartDataIn` of their reply. -/
theorem statusAndLineCodingAreReplied : Obligations.StatusAndLineCodingAreReplied :=
  fun _ _ _ _ h => ⟨startDataIn_of_ready h, startDataIn_of_ready h⟩

/-- Settles O37: the descriptor's bytes go to `StartDataIn` as they are; with none the guard stalls. -/
theorem descriptorsAreServedOrStalled : Obligations.DescriptorsAreServedOrStalled := by
  refine fun s v i l h => ⟨fun d hd => ?_, fun hd => ?_⟩
  · obtain ⟨t, ht, hstarted⟩ := startDataIn_of_ready (resp := d) (c := .ofSetup 0x80 0x06 v i l) h
    exact ⟨t, (execReqGetDescriptor_of_some hd).trans ht, hstarted⟩
  · exact (execReqGetDescriptor_of_none hd).trans (raiseProtocolError_of_configured _ h.1)

/-- Settles O38: the rule's guard is the four conditions of R172, and behind it the address is staged. -/
theorem setAddressStagesOrStalls : Obligations.SetAddressStagesOrStalls := by
  refine fun s v i l h => ⟨fun hb => (if_pos hb).trans (raiseProtocolError_of_configured _ h.1), fun hb => ?_⟩
  rw [BitVec.setWidth_eq_extractLsb' (by decide)]
  exact (if_neg hb).trans (startStatusIn_of_ready (s := { s with pendingAddr := some (addressOf v) }) h.1 h.2.1)

/-- Settles O39: the rule's guard is the four conditions of R178, and behind it only endpoint 1 and the device state
are written before the status packet is armed. -/
theorem setConfigurationEnablesEndpointOne : Obligations.SetConfigurationEnablesEndpointOne :=
  fun s _ _ _ h =>
    ⟨fun hb => (if_pos hb).trans (raiseProtocolError_of_configured _ h.1),
      fun hb => (if_neg hb).trans (startStatusIn_of_ready
        (s := { configureEndpoint .ep1 .bulk .nak .valid { s with devState := .configured } with
          ep1TxBusy := false, ep1TxLastLen := 0 }) h.1 h.2.1)⟩

/-- Settles O40: the length is the one guard, and behind it the receive direction is requested. -/
theorem setLineCodingWaitsForItsPayload : Obligations.SetLineCodingWaitsForItsPayload :=
  fun _ _ _ _ h =>
    ⟨fun hl => (if_neg (not_not.2 hl)).trans (setStatus_of_configured (e := .ep0) .rx .valid h.1),
      fun hl => (if_pos hl).trans (raiseProtocolError_of_configured _ h.1)⟩

/-- Settles O41: the length is the one guard, and behind it the status packet is armed. -/
theorem setControlLineStateIsAcknowledged : Obligations.SetControlLineStateIsAcknowledged :=
  fun _ _ _ _ h =>
    ⟨fun hl => (if_neg (not_not.2 hl)).trans (startStatusIn_of_ready h.1 h.2.1),
      fun hl => (if_pos hl).trans (raiseProtocolError_of_configured _ h.1)⟩

/-- Settles O42: the request is the stall action. -/
theorem unsupportedRequestsStallEndpointZero : Obligations.UnsupportedRequestsStallEndpointZero :=
  fun _ _ _ _ _ _ h => raiseProtocolError_of_configured .unsupportedRequest h

end Sys2Proof.Machine
end

section
/-! The bodies of endpoint 1 (spec/43_bulk.md): what a received packet, a completed IN and a kick come to (O43 to
O45). -/

namespace Sys2Proof.Machine

section Bulk
variable {s : State}

/-! ## The overrun count (spec/60_exceptions.md R303) -/

/-- Recording an overrun writes the count alone, and reads nothing that `appendRx` writes. -/
theorem recordOverrun_appendRx (n k : Nat) (d : List Byte) (s : State) :
    recordOverrun n k (appendRx d k s)
      = { appendRx d k s with overrunCount := (recordOverrun n k s).overrunCount } := by
  unfold recordOverrun
  split <;> rfl

theorem toNat_sat32 (v : Nat) : (sat32 v).toNat = min v (2 ^ 32 - 1) := by
  rw [sat32, BitVec.toNat_ofNat, Nat.mod_eq_of_lt (by omega)]

/-- The count grows by the bytes that were dropped, none when all were kept. -/
theorem overrunCount_recordOverrun (n k : Nat) (s : State) :
    (recordOverrun n k s).overrunCount.toNat = min (s.overrunCount.toNat + (n - k)) (2 ^ 32 - 1) := by
  unfold recordOverrun
  split
  · exact toNat_sat32 _
  · have := s.overrunCount.isLt
    omega

/-! ## `BULK.OUT_DONE` -/

/-- How many of the received bytes the RX ring has room for. -/
def State.rxFit (s : State) : Nat := min s.bdt1.rxCount.toNat (s.params.rxCap - s.rxrb.count)

/-- The block with the bytes that fit stored and the others counted. -/
def State.rxStored (s : State) : State :=
  { appendRx (s.pmaBytes s.bdt1.rxOffset.toNat s.bdt1.rxCount.toNat) s.rxFit s with
    overrunCount := (recordOverrun s.bdt1.rxCount.toNat s.rxFit s).overrunCount }

/-- The block after `BULK.OUT_DONE`. -/
def State.outDone (s : State) : State :=
  { s.rxStored with ep1 := { s.ep1 with rxToggle := !s.ep1.rxToggle, rxStatReq := some .valid } }

theorem execBulkOutDone_of_ready (h : s.ep1Ready) : execBulkOutDone s = .next s.outDone := by
  obtain ⟨hc, hb, he⟩ := h
  calc execBulkOutDone s
    _ = withValue (readRxCount .ep1 s) _ := if_neg (by simp [hc])
    _ = withValue (pmaRead s.bdt1.rxOffset.toNat s.bdt1.rxCount.toNat s) _ :=
        withValue_of_ok (readRxCount_of_configured (e := .ep1) hb) _
    _ = andThen (toggleData .ep1 .rx (recordOverrun s.bdt1.rxCount.toNat s.rxFit
          (appendRx (s.pmaBytes s.bdt1.rxOffset.toNat s.bdt1.rxCount.toNat) s.rxFit s)))
          (setStatus .ep1 .rx .valid) :=
        withValue_of_ok (pmaRead_rx he (rxCount_le he)) _
    _ = andThen (toggleData .ep1 .rx s.rxStored) (setStatus .ep1 .rx .valid) := by
        rw [recordOverrun_appendRx]
        rfl
    _ = setStatus .ep1 .rx .valid (s.rxStored.setEp .ep1 (s.rxStored.ep1.flip .rx)) :=
        andThen_of_next (toggleData_of_configured (e := .ep1) (s := s.rxStored) .rx hc) _
    _ = .next s.outDone := setStatus_of_configured (e := .ep1) .rx .valid hc

theorem rxFit_add_count_le (hbound : s.rxrb.count ≤ s.params.rxCap) : s.rxrb.count + s.rxFit ≤ s.params.rxCap := by
  unfold State.rxFit
  omega

theorem rxContents_outDone (hcap : Params.capOk s.params.rxCap = true) (hbound : s.rxrb.count ≤ s.params.rxCap) :
    s.outDone.rxContents
      = s.rxContents ++ (s.pmaBytes s.bdt1.rxOffset.toNat s.bdt1.rxCount.toNat).take s.rxFit :=
  rxContents_appendRx hcap (by rw [length_pmaBytes]; exact Nat.min_le_left _ _) (rxFit_add_count_le hbound)

theorem rxrb_count_outDone (hcap : Params.capOk s.params.rxCap = true) (hbound : s.rxrb.count ≤ s.params.rxCap) :
    s.outDone.rxrb.count = s.rxrb.count + s.rxFit := by
  have hroom := rxFit_add_count_le hbound
  have hmax := capOk_le hcap
  exact ring_count_produce _ s.rxrb s.rxFit (by omega)

theorem overrunCount_outDone (s : State) : s.outDone.overrunCount.toNat
    = min (s.overrunCount.toNat + (s.bdt1.rxCount.toNat - s.rxFit)) (2 ^ 32 - 1) :=
  overrunCount_recordOverrun _ _ s

theorem execBulkOutDone_of_unconfigured (h : s.ep1.configured = false) : execBulkOutDone s = .next s :=
  if_pos h

/-! ## `BULK.IN_DONE` and `BULK.KICK`: what comes before `TryStartIn` -/

theorem execBulkInDone_of_configured (h : s.ep1.configured = true) :
    execBulkInDone s = tryStartIn true
      { s with ep1 := { s.ep1 with txToggle := !s.ep1.txToggle }, ep1TxBusy := false } :=
  (if_neg (by simp [h])).trans (andThen_of_next (toggleData_of_configured (e := .ep1) .tx h) _)

theorem execBulkInDone_of_unconfigured (h : s.ep1.configured = false) : execBulkInDone s = .next s :=
  if_pos h

theorem execBulkKick_of_idle (h : s.ep1.configured = true) (hidle : s.ep1TxBusy = false) :
    execBulkKick s = tryStartIn false s :=
  if_pos ⟨h, hidle⟩

theorem execBulkKick_of_not_idle (h : s.ep1.configured = false ∨ s.ep1TxBusy = true) : execBulkKick s = .next s :=
  if_neg fun ⟨hc, hb⟩ => by simp [hc, hb] at h

end Bulk

/-- Settles O43: the bytes read, `appendRx`, the saturating count, the two commands on the receive direction. -/
theorem bulkOutKeepsWhatFitsAndCountsTheRest : Obligations.BulkOutKeepsWhatFitsAndCountsTheRest :=
  ⟨fun s h hcap hbound => ⟨s.outDone, execBulkOutDone_of_ready h, rfl, rxContents_outDone hcap hbound,
      rxrb_count_outDone hcap hbound, overrunCount_outDone s⟩,
    fun _ => execBulkOutDone_of_unconfigured⟩

/-- Settles O44: the guard, the toggle, and `TryStartIn` from there. -/
theorem bulkInCompletionSendsTheNextPacket : Obligations.BulkInCompletionSendsTheNextPacket := by
  refine ⟨fun s h => ?_, fun s => execBulkInDone_of_unconfigured⟩
  obtain ⟨t, ht, htried⟩ := tryStartIn_of_ready (after := true)
    (s := { s with ep1 := { s.ep1 with txToggle := !s.ep1.txToggle }, ep1TxBusy := false }) h
  exact ⟨t, (execBulkInDone_of_configured h.1).trans ht, htried⟩

/-- Settles O45: the guard asks for both conditions, and behind it is `TryStartIn`. -/
theorem bulkKickStartsAnIdleEndpoint : Obligations.BulkKickStartsAnIdleEndpoint := by
  refine ⟨fun s h hidle => ?_, fun s => execBulkKick_of_not_idle⟩
  obtain ⟨t, ht, htried⟩ := tryStartIn_of_ready (after := false) h
  exact ⟨t, (execBulkKick_of_idle h.1 hidle).trans ht, htried⟩

end Sys2Proof.Machine
end

section
/-! Bytes through the whole machine on endpoint 1 (spec/43_bulk.md R209): the two transactions of the link that move a
packet, an invocation that handles one event, and from these the paths from host to reader (O57) and from writer to
host (O58). -/

namespace Sys2Proof.Machine

section Paths
variable {s u : State}

/-! ## The link -/

/-- The two filters let a token through that names the device and an endpoint laid out. -/
theorem tokenTarget_eq_some {addr : BitVec 7} {endp : BitVec 4} {e : Ep} (ha : addr = s.devAddr)
    (he : endp.setWidth 8 = e.number) (hb : s.bdtConfigured e = true) : tokenTarget addr endp s = some e := by
  have hn : endpOf endp = some e := by
    cases e <;> revert endp <;> decide
  simp [tokenTarget, ha, hn, hb]

@[simp] theorem applyRequests_bdt (s : State) (e : Ep) : (applyRequests s).bdt e = s.bdt e := by
  cases e <;> rfl

@[simp] theorem applyRequests_bdtConfigured (s : State) (e : Ep) :
    (applyRequests s).bdtConfigured e = s.bdtConfigured e := by
  cases e <;> rfl

@[simp] theorem tokenTarget_applyRequests (addr : BitVec 7) (endp : BitVec 4) (s : State) :
    tokenTarget addr endp (applyRequests s) = tokenTarget addr endp s := by
  simp only [tokenTarget, applyRequests_bdtConfigured]
  rfl

@[simp] theorem applyRequests_rxToggle (s : State) (e : Ep) :
    ((applyRequests s).ep e).rxToggle = (s.ep e).rxToggle := by
  cases e <;> rfl

@[simp] theorem applyRequests_txToggle (s : State) (e : Ep) :
    ((applyRequests s).ep e).txToggle = (s.ep e).txToggle := by
  cases e <;> rfl

/-- The block after an OUT packet was taken. -/
def State.outTaken (e : Ep) (data : List Byte) (s : State) : State :=
  { ((applyRequests s).setBdt e { s.bdt e with rxCount := BitVec.ofNat 16 data.length }).setEp e
      { (applyRequests s).ep e with rxStat := .nak } with
    istat := s.istat.setCtRx e
    busResp := .handshake .ack
    pma := writtenPma s (s.bdt e).rxOffset.toNat data
    draws := writtenDraws s (s.bdt e).rxOffset.toNat data }

theorem acceptOut_of_fits {e : Ep} {data : List Byte} (hb : entryOk s.params (s.bdt e))
    (hd : data.length ≤ (s.bdt e).rxMaxCount.toNat) :
    acceptOut e data (applyRequests s) = .next (s.outTaken e data) := by
  obtain ⟨-, heven, -, hlow, -, hmax, -, -, -, hhigh⟩ := hb
  have hw : pmaWrite (s.bdt e).rxOffset.toNat data (applyRequests s) = .next { applyRequests s with
      pma := writtenPma s (s.bdt e).rxOffset.toNat data
      draws := writtenDraws s (s.bdt e).rxOffset.toNat data } :=
    pmaWrite_of_inside (Nat.le_trans hd hmax) heven hlow (Nat.le_trans (Nat.add_le_add_left hd _) hhigh)
  unfold acceptOut
  rw [applyRequests_bdt, andThen_of_next hw]
  cases e <;> rfl

/-- An OUT packet with the expected toggle that fits the buffer of a Valid endpoint is taken (R266). -/
theorem execBusOut_of_valid {addr : BitVec 7} {endp : BitVec 4} {e : Ep} {tog : Bool} {data : List Byte}
    (hf : s.fatal = false) (ht : tokenTarget addr endp s = some e)
    (hs : ((applyRequests s).ep e).rxStat = .valid) (hb : entryOk s.params (s.bdt e))
    (hd : data.length ≤ (s.bdt e).rxMaxCount.toNat) (htog : tog = (s.ep e).rxToggle) :
    execBusOut addr endp tog data s = .next (s.outTaken e data) := by
  have hp : performOut e tog data (applyRequests s) = .next (s.outTaken e data) := by
    unfold performOut
    rw [applyRequests_bdt, applyRequests_rxToggle, if_neg (Nat.not_lt.2 hd), if_neg (not_not.2 htog)]
    exact acceptOut_of_fits hb hd
  rw [execBusOut, linkStep_of_running hf, tokenTarget_applyRequests, ht]
  simpa only [hs, answerByStatus] using hp

/-- The block after an IN packet was sent and acknowledged. -/
def State.inSent (e : Ep) (s : State) : State :=
  { (applyRequests s).setEp e { (applyRequests s).ep e with txStat := .nak } with
    istat := s.istat.setCtTx e
    busResp := .packet (s.ep e).txToggle (s.pmaBytes (s.bdt e).txOffset.toNat (s.bdt e).txCount.toNat) true }

/-- An IN on a Valid endpoint gets the armed bytes with the device's toggle (R269). -/
theorem execBusIn_of_valid {addr : BitVec 7} {endp : BitVec 4} {e : Ep} (hf : s.fatal = false)
    (ht : tokenTarget addr endp s = some e) (hs : ((applyRequests s).ep e).txStat = .valid)
    (hb : entryOk s.params (s.bdt e)) : execBusIn addr endp true s = .next (s.inSent e) := by
  have hr := pmaRead_tx (s := applyRequests s) (b := s.bdt e) hb
  rw [pmaBytes_of_pma_eq (s := s) (t := applyRequests s) rfl] at hr
  have hp : performIn e true (applyRequests s) = .next (s.inSent e) := by
    rw [performIn, applyRequests_bdt, withValue_of_ok hr]
    cases e <;> rfl
  rw [execBusIn, linkStep_of_running hf, tokenTarget_applyRequests, ht]
  simpa only [hs, answerByStatus] using hp

/-! ## An invocation that handles one event -/

theorem irq_of_has {f : Istat} {e : Event} (h : f.has e = true) : f.irq = true := by
  cases e <;> simp_all [Istat.has, Istat.irq]

/-- An event whose clearing leaves no flag is the one selected. -/
theorem firstEvent_of_only {f : Istat} {e : Event} (h : f.has e = true) (hc : (f.clear e).irq = false) :
    f.firstEvent = some e := by
  cases e <;> simp_all [Istat.has, Istat.clear, Istat.irq, Istat.firstEvent, eventOrder]

/-- No invocation is running and the flag of `e` is the only one set: the next invocation handles `e` alone. -/
structure State.Awaits (e : Event) (s : State) : Prop where
  notFatal : s.fatal = false
  noSnap : s.dispSnap = none
  flag : s.istat.has e = true
  alone : (s.istat.clear e).irq = false

/-- With one event in ISTAT an invocation is its handler, entered and left. -/
theorem invocation_of_awaits {e : Event} (h : s.Awaits e) (hu : runHandler e (enterInvocation s) = .next u) :
    invocation s = .next { u with dispSnap := none } := by
  obtain ⟨hf, hd, he, hc⟩ := h
  have hi : s.istat.irq = true := irq_of_has he
  have henter : execDispatch s.dispatchWord s = .next (enterInvocation s) := by
    simp [execDispatch, hf, hd, hi]
  have hhandle (w : Half) : execDispatch w (enterInvocation s) = .next { u with dispSnap := none } := by
    have hstep : handlerStep s.istat (enterInvocation s) = .next (leaveEvent s.istat e u) := by
      have hhas : (enterInvocation s).istat.has e = true := he
      rw [handlerStep, if_neg (by simp [hi]), firstEvent_of_only he hc]
      simp only [hhas, if_true, hu, andThen_next]
    rw [leaveEvent, if_neg (by simp [hc])] at hstep
    exact (if_neg (by simp [enterInvocation, hf])).trans hstep
  calc invocation s
    _ = andThen (execDispatch s.dispatchWord s) (handlerSteps 9) :=
        if_pos (dispatcherHasStep_iff.2 ⟨hf, .inr hi⟩)
    _ = andThen (execDispatch (enterInvocation s).dispatchWord (enterInvocation s)) (handlerSteps 8) :=
        andThen_of_next henter _
    _ = .next { u with dispSnap := none } := andThen_of_next (hhandle _) _

/-- In a quiescent block the flag of a received packet is the only one. -/
theorem awaits_outTaken (data : List Byte) (hf : s.fatal = false) (hd : s.dispSnap = none)
    (hi : s.istat.irq = false) : (s.outTaken .ep1 data).Awaits .ctEp1Rx := by
  have halone : ((s.istat.setCtRx .ep1).clear .ctEp1Rx).irq = false := by
    simp_all [Istat.irq, Istat.setCtRx, Istat.clear]
  exact ⟨hf, hd, rfl, halone⟩

/-- In a quiescent block the flag that `BR.KICK` sets is the only one. -/
theorem awaits_kick (hf : s.fatal = false) (hd : s.dispSnap = none) (hi : s.istat.irq = false) :
    State.Awaits .kick { s with istat := { s.istat with kick := true } } := by
  have halone : (({ s.istat with kick := true } : Istat).clear .kick).irq = false := by
    simp_all [Istat.irq, Istat.clear]
  exact ⟨hf, hd, rfl, halone⟩

/-! ## The rings as byte strings -/

theorem length_rxContents (s : State) : s.rxContents.length = s.rxrb.count := length_ringLoads _ _ _ _ _

theorem length_txContents (s : State) : s.txContents.length = s.txrb.count := length_ringLoads _ _ _ _ _

theorem rxContents_eq_nil (h : s.rxrb.count = 0) : s.rxContents = [] :=
  List.eq_nil_of_length_eq_zero ((length_rxContents s).trans h)

theorem txContents_eq_nil (h : s.txrb.count = 0) : s.txContents = [] :=
  List.eq_nil_of_length_eq_zero ((length_txContents s).trans h)

end Paths

section Receive
variable {s : State} {data : List Byte}

/-- With room for all of it nothing of a received packet is dropped. -/
theorem rxFit_of_room (h : s.rxrb.count + s.bdt1.rxCount.toNat ≤ s.params.rxCap) : s.rxFit = s.bdt1.rxCount.toNat :=
  Nat.min_eq_left (by omega)

theorem overrunCount_outDone_of_room (h : s.rxrb.count + s.bdt1.rxCount.toNat ≤ s.params.rxCap) :
    s.outDone.overrunCount = s.overrunCount := by
  have hcount := overrunCount_outDone s
  rw [rxFit_of_room h, Nat.sub_self, Nat.add_zero] at hcount
  exact BitVec.eq_of_toNat_eq (hcount.trans (Nat.min_eq_left (Nat.le_pred_of_lt s.overrunCount.isLt)))

/-- The block once the invocation that a received packet's flag starts has ended. -/
def State.outHandled (s : State) : State :=
  { (enterInvocation s).outDone with
    istat := (enterInvocation s).outDone.istat.clear .ctEp1Rx
    dispSnap := none }

theorem outHandled_appOp (s : State) : s.outHandled.appOp = s.appOp := by
  simp only [State.outHandled, State.outDone, State.rxStored, appendRx, enterInvocation]

theorem invocation_of_received (h : s.Awaits .ctEp1Rx) (h1 : s.ep1Ready) : invocation s = .next s.outHandled := by
  have hbody := execBulkOutDone_of_ready (s := enterInvocation s) h1
  exact invocation_of_awaits h ((handleEvent_eq_next (s := enterInvocation s) h.notFatal).2 ⟨_, hbody, rfl⟩)

theorem rxCount_outTaken (he : entryOk s.params s.bdt1) (hd : data.length ≤ s.bdt1.rxMaxCount.toNat) :
    (s.outTaken .ep1 data).bdt1.rxCount.toNat = data.length := by
  obtain ⟨-, -, -, -, -, hmax, -⟩ := he
  exact Nat.mod_eq_of_lt (by omega)

theorem ep1Ready_outTaken (h1 : s.ep1Ready) (hd : data.length ≤ s.bdt1.rxMaxCount.toNat) :
    (s.outTaken .ep1 data).ep1Ready := by
  obtain ⟨hc, hb, he⟩ := h1
  have hcount : (s.outTaken .ep1 data).bdt1.rxCount.toNat ≤ s.bdt1.rxMaxCount.toNat :=
    (rxCount_outTaken he hd).trans_le hd
  obtain ⟨a1, a2, a3, a4, a5, a6, a7, -, a8⟩ := he
  exact ⟨hc, hb, a1, a2, a3, a4, a5, a6, a7, hcount, a8⟩

/-- The bytes that were received stand behind those the ring held, if there was room for them. -/
theorem rxContents_outHandled (hcap : Params.capOk s.params.rxCap = true)
    (hroom : s.rxrb.count + s.bdt1.rxCount.toNat ≤ s.params.rxCap) :
    s.outHandled.rxContents = s.rxContents ++ s.pmaBytes s.bdt1.rxOffset.toNat s.bdt1.rxCount.toNat := by
  have hbound : s.rxrb.count ≤ s.params.rxCap := Nat.le_of_add_right_le hroom
  have hdone := rxContents_outDone (s := enterInvocation s) hcap hbound
  rw [pmaBytes_of_pma_eq (s := s) (t := enterInvocation s) rfl, rxFit_of_room (s := enterInvocation s) hroom,
    List.take_of_length_le (length_pmaBytes _ _ _).le] at hdone
  exact hdone

/-- A packet that waits in the receive buffer, its flag alone in ISTAT, is what the next `BR.READ` answers. -/
theorem wholeRead_of_received (h : s.Awaits .ctEp1Rx) (h1 : s.ep1Ready)
    (hcap : Params.capOk s.params.rxCap = true) (hop : s.appOp = none) (hempty : s.rxrb.count = 0)
    (hn : s.bdt1.rxCount.toNat = data.length) (hdata : s.pmaBytes s.bdt1.rxOffset.toNat data.length = data)
    (hroom : data.length ≤ s.params.rxCap) :
    ∃ t u, invocation s = .next t ∧ wholeRead data.length t = .next u ∧ u.appResult = .filled data.length data
      ∧ u.overrunCount = s.overrunCount ∧ u.rxrb.count = 0 := by
  have hfits : s.rxrb.count + s.bdt1.rxCount.toNat ≤ s.params.rxCap := by omega
  have hcontents : s.outHandled.rxContents = data := by
    rw [rxContents_outHandled hcap hfits, rxContents_eq_nil hempty, hn, hdata, List.nil_append]
  have hcount : s.outHandled.rxrb.count = data.length := by
    rw [← length_rxContents, hcontents]
  obtain ⟨u, hu, heq, hleft⟩ := wholeReadTakesTheOldestBytes s.outHandled data.length ((outHandled_appOp s).trans hop)
  rw [hcount, Nat.min_self, hcontents] at heq hleft
  refine ⟨s.outHandled, u, invocation_of_received h h1, hu, ?_, ?_, ?_⟩
  · rw [heq, List.take_length]
  · rw [heq]
    exact overrunCount_outDone_of_room (s := enterInvocation s) hfits
  · rw [← length_rxContents, hleft, List.drop_length, List.length_nil]

end Receive

/-- Settles O57: the link puts the packet in the receive buffer with its flag alone in ISTAT, and from there it goes to
the reader. -/
theorem receivedPacketReachesTheReader : Obligations.ReceivedPacketReachesTheReader := by
  intro s data h hirq hsnap hop hvalid hfit hempty hroom
  have hconf : (applyRequests s).ep1.configured = true :=
    configured_of_stat (applyRequests_invariant h) (e := .ep1) (d := .rx) (by simp [Endpoint.stat, hvalid])
  have h1 : s.ep1Ready := ep1Ready_of_invariant h hconf
  obtain ⟨-, hb, he⟩ := id h1
  have htaken : exec (.busOut s.devAddr 1 s.ep1.rxToggle data) s = .next (s.outTaken .ep1 data) :=
    execBusOut_of_valid h.notFatal (tokenTarget_eq_some (e := .ep1) rfl rfl hb) hvalid he hfit rfl
  have hcap := rxCap_ok h
  obtain ⟨t, u, ht, hu, hresult, hoverrun, hleft⟩ := wholeRead_of_received
    (awaits_outTaken data h.notFatal hsnap hirq) (ep1Ready_outTaken h1 hfit) hcap hop hempty
    (rxCount_outTaken he hfit) (pmaBytes_written s _ _ data rfl) hroom
  exact ⟨_, t, u, htaken, rfl, ht, hu, hresult, hoverrun, hleft⟩

section Send
variable {s t : State}

/-- `TryStartIn` with bytes in the ring, seen from the link: endpoint 1 is armed with the first of them, at most 64. -/
structure FirstArmed (s t : State) : Prop where
  endpoint : t.ep1 = { s.ep1 with txStatReq := some .valid }
  entry : t.bdt1 = { s.bdt1 with txCount := BitVec.ofNat 16 (min 64 s.txrb.count) }
  packet : t.pmaBytes t.bdt1.txOffset.toNat t.bdt1.txCount.toNat = s.txContents.take 64
  rest : t.txContents = s.txContents.drop 64

theorem toNat_armedCount (n : Nat) : (BitVec.ofNat 16 (min 64 n)).toNat = min 64 n :=
  Nat.mod_eq_of_lt (by omega)

theorem firstArmed_of_inTried {after : Bool} (hpos : 0 < s.txrb.count) (h : InTried after s t) : FirstArmed s t := by
  unfold InTried at h
  obtain ⟨heq, hsent, hrest, -⟩ := (if_pos hpos).mp h
  have hentry : t.bdt1 = { s.bdt1 with txCount := BitVec.ofNat 16 (min 64 s.txrb.count) } :=
    congrArg State.bdt1 heq
  rw [← length_txContents] at hsent hrest
  refine ⟨congrArg State.ep1 heq, hentry, ?_, hrest.trans List.drop_eq_drop_min.symm⟩
  rw [hentry, toNat_armedCount, ← length_txContents]
  exact hsent.trans List.take_eq_take_min.symm

/-- Once endpoint 1 is armed, the next IN gets the packet. -/
theorem execBusIn_of_firstArmed (hf : t.fatal = false) (hb : t.bdtConfigured1 = true)
    (he : entryOk t.params s.bdt1) (h : FirstArmed s t) :
    ∃ u, execBusIn t.devAddr 1 true t = .next u
      ∧ u.busResp = .packet s.ep1.txToggle (s.txContents.take 64) true ∧ u.txContents = s.txContents.drop 64 := by
  have hvalid : ((applyRequests t).ep .ep1).txStat = .valid := by
    simp [applyRequests, Endpoint.applyRequests, h.endpoint, applied]
  have hentry : entryOk t.params t.bdt1 := by
    obtain ⟨a1, a2, a3, a4, a5, a6, -, a7⟩ := he
    have hcount : (BitVec.ofNat 16 (min 64 s.txrb.count)).toNat ≤ 64 :=
      (toNat_armedCount _).trans_le (Nat.min_le_left _ _)
    rw [h.entry]
    exact ⟨a1, a2, a3, a4, a5, a6, hcount, a7⟩
  have hsent : execBusIn t.devAddr 1 true t = .next (t.inSent .ep1) :=
    execBusIn_of_valid hf (tokenTarget_eq_some (e := .ep1) rfl rfl hb) hvalid hentry
  refine ⟨t.inSent .ep1, hsent, ?_, h.rest⟩
  show BusResponse.packet t.ep1.txToggle (t.pmaBytes t.bdt1.txOffset.toNat t.bdt1.txCount.toNat) true = _
  rw [h.packet, h.endpoint]

/-- Entering the invocation and leaving it behind the handler does not touch what is armed. -/
theorem FirstArmed.of_handled (f : Istat) (h : FirstArmed (enterInvocation s) t) :
    FirstArmed s { t with istat := f, dispSnap := none } :=
  ⟨h.endpoint, h.entry,
    (pmaBytes_of_pma_eq (s := t) (t := { t with istat := f, dispSnap := none }) rfl _ _).trans h.packet, h.rest⟩

/-- Bytes that wait in the ring of an idle endpoint 1, the kick alone in ISTAT, are armed by the invocation. -/
theorem invocation_of_kicked (h : s.Awaits .kick) (h1 : s.ep1Ready) (hidle : s.ep1TxBusy = false)
    (hpos : 0 < s.txrb.count) :
    ∃ t, invocation s = .next t ∧ t.fatal = false ∧ t.devAddr = s.devAddr ∧ t.params = s.params
      ∧ t.bdtConfigured1 = true ∧ FirstArmed s t := by
  obtain ⟨t, ht, htried⟩ := bulkKickStartsAnIdleEndpoint.1 (enterInvocation s) h1 hidle
  have hframe := bulkKick_frame ht
  exact ⟨_, invocation_of_awaits h
      ((handleEvent_eq_next (s := enterInvocation s) h.notFatal).2 ⟨t, ht, rfl⟩),
    hframe.fatal.trans h.notFatal, hframe.devAddr, hframe.params, hframe.bdtConfigured1.trans h1.2.1,
    (firstArmed_of_inTried (s := enterInvocation s) hpos htried).of_handled _⟩

/-- Bytes that wait in the ring of an idle endpoint 1, the kick alone in ISTAT, are what the next IN gets. -/
theorem execBusIn_of_kicked {bytes : List Byte} (h : s.Awaits .kick) (h1 : s.ep1Ready)
    (hidle : s.ep1TxBusy = false) (hbytes : s.txContents = bytes) (hpos : 1 ≤ bytes.length) :
    ∃ t u, invocation s = .next t ∧ execBusIn s.devAddr 1 true t = .next u
      ∧ u.busResp = .packet s.ep1.txToggle (bytes.take 64) true ∧ u.txContents = bytes.drop 64 := by
  subst hbytes
  rw [length_txContents] at hpos
  obtain ⟨t, ht, hft, haddr, hparams, hb, harmed⟩ := invocation_of_kicked h h1 hidle hpos
  obtain ⟨-, -, he⟩ := h1
  obtain ⟨u, hu, hresp, hrest⟩ := execBusIn_of_firstArmed hft hb (hparams ▸ he) harmed
  exact ⟨t, u, ht, haddr ▸ hu, hresp, hrest⟩

/-- Bytes written to an empty ring with room for all of them are what it then holds. -/
theorem wholeWrite_of_empty {bytes : List Byte} (hop : s.appOp = none) (hcap : Params.capOk s.params.txCap = true)
    (hempty : s.txrb.count = 0) (hroom : bytes.length ≤ s.params.txCap) :
    wholeWrite bytes s = .next (s.wrote bytes bytes.length) ∧ (s.wrote bytes bytes.length).txContents = bytes := by
  have hall : min bytes.length (s.params.txCap - s.txrb.count) = bytes.length := Nat.min_eq_left (by omega)
  have hwrote := wholeWrite_of_free bytes hop
  obtain ⟨hcontents, -⟩ := txContents_wrote hcap (Nat.le_refl bytes.length) (by omega)
  rw [hall] at hwrote
  rw [txContents_eq_nil hempty, List.take_length, List.nil_append] at hcontents
  exact ⟨hwrote, hcontents⟩

end Send

/-- Settles O58: the write fills the empty ring and the kick leaves its flag alone in ISTAT, and from there the first
bytes go to the host. -/
theorem kickedBytesReachTheHost : Obligations.KickedBytesReachTheHost := by
  intro s bytes h hirq hsnap hop hconf hidle hempty hpos hroom
  have h1 : s.ep1Ready := ep1Ready_of_invariant h hconf
  obtain ⟨hwrote, hcontents⟩ := wholeWrite_of_empty hop (txCap_ok h) hempty hroom
  have hkick := startBridge_of_idle (s := s.wrote bytes bytes.length) rfl
    fun s => { s with istat := { s.istat with kick := true } }
  obtain ⟨t, u, ht, hu, hresp, hrest⟩ :=
    execBusIn_of_kicked (awaits_kick (s := s.wrote bytes bytes.length) h.notFatal hsnap hirq) h1 hidle hcontents hpos
  exact ⟨_, _, t, u, hwrote, rfl, hkick, ht, hu, hresp, hrest⟩

end Sys2Proof.Machine
end

section
/-! The dispatcher (spec/44_dispatcher.md): what the nine handlers leave alone (O27 to O31), what one step of `DISPATCH`
does (O25, O26), and that an invocation run alone ends with every flag handled (O56). -/

namespace Sys2Proof.Machine

section Flags
variable {f : Istat} {e : Event}

theorem has_clear (f : Istat) (e e' : Event) : (f.clear e).has e' = if e' = e then false else f.has e' := by
  cases e <;> cases e' <;> rfl

theorem setup_clear (f : Istat) (e : Event) : (f.clear e).setup = if e = .ctEp0Rx then false else f.setup := by
  cases e <;> rfl

/-- What stands after an event is cleared is another event, and stood before. -/
theorem has_clear_eq_true {e' : Event} : (f.clear e).has e' = true ↔ e' ≠ e ∧ f.has e' = true := by
  rw [has_clear]
  split <;> simp [*]

/-- Clearing an event that does not stand changes nothing, where `setup` stands only beside `ctEp0Rx`. -/
theorem clear_of_absent (hs : f.ctEp0Rx = false → f.setup = false) (h : f.has e = false) : f.clear e = f := by
  obtain ⟨⟩ := f
  cases e
  case ctEp0Rx =>
    obtain rfl : _ = false := h
    obtain rfl : _ = false := hs rfl
    rfl
  all_goals
    obtain rfl : _ = false := h
    rfl

/-- Flags of which `setup` is not alone are none if no event stands. -/
theorem irq_of_no_event (hs : f.ctEp0Rx = false → f.setup = false) (h : ∀ e, f.has e = false) : f.irq = false := by
  by_contra hi
  obtain ⟨e, he⟩ := firstEvent_of_irq (by simpa using hi) hs
  simpa [h e] using firstEvent_has he

/-! ## Which event is first -/

theorem mem_eventOrder (e : Event) : e ∈ eventOrder := by
  cases e <;> decide

/-- An event stands in `eventOrder` at its priority number. -/
theorem eventOrder_eq_append (e : Event) :
    eventOrder = eventOrder.take (e.priority - 1) ++ e :: eventOrder.drop e.priority := by
  cases e <;> rfl

theorem priority_lt_of_before : ∀ a ∈ eventOrder.take (e.priority - 1), a.priority < e.priority := by
  cases e <;> decide

/-- The event of lowest priority number is the one selected (R222). -/
theorem firstEvent_of_lowest (h : f.has e = true) (hl : ∀ e', f.has e' = true → e.priority ≤ e'.priority) :
    f.firstEvent = some e := by
  refine List.find?_eq_some_iff_append.2 ⟨h, _, _, eventOrder_eq_append e, fun a ha => ?_⟩
  have hlt := priority_lt_of_before a ha
  by_contra hn
  exact Nat.not_le.2 hlt (hl a (by simpa using hn))

theorem firstEvent_eq_none (h : ∀ e, f.has e = false) : f.firstEvent = none :=
  List.find?_eq_none.2 fun e _ => by simp [h e]

/-! ## How many events stand -/

/-- The number of events that stand: at most so many handler steps are left of an invocation. -/
def Istat.eventCount (f : Istat) : Nat := eventOrder.countP f.has

theorem eventCount_le (f : Istat) : f.eventCount ≤ 8 := List.countP_le_length

theorem eventCount_pos (h : f.has e = true) : 0 < f.eventCount :=
  List.countP_pos_iff.2 ⟨e, mem_eventOrder e, h⟩

theorem eventCount_clear_lt (h : f.has e = true) : (f.clear e).eventCount < f.eventCount := by
  have hle (l : List Event) : l.countP (f.clear e).has ≤ l.countP f.has :=
    List.countP_mono_left fun e' _ he' => (has_clear_eq_true.1 he').2
  have hgone : (f.clear e).has e = false := by simp [has_clear]
  have hbefore := hle (eventOrder.take (e.priority - 1))
  have hafter := hle (eventOrder.drop e.priority)
  unfold Istat.eventCount
  rw [eventOrder_eq_append e, List.countP_append, List.countP_append, List.countP_cons, List.countP_cons, h, hgone]
  simp only [Bool.false_eq_true, if_false, if_true]
  omega

end Flags

section Handlers
variable {s t : State} {i : Instr} {e : Event}

/-! ## What a handler leaves alone -/

/-- What no body of a handler touches. -/
structure OutsideBodies (s t : State) : Prop where
  inputs : t.inputs = s.inputs
  istat : t.istat = s.istat
  appOp : t.appOp = s.appOp

theorem OutsideEp0.outsideBodies (h : OutsideEp0 s t) : OutsideBodies s t := ⟨h.inputs, h.istat, h.appOp⟩

theorem OutsideEp1.outsideBodies (h : OutsideEp1 s t) : OutsideBodies s t := ⟨h.inputs, h.istat, h.appOp⟩

theorem resetBody_frame (h : resetBody s = .next t) : OutsideBodies s t := by
  cases h
  exact ⟨rfl, rfl, rfl⟩

theorem suspendBody_frame (h : suspendBody s = .next t) : OutsideBodies s t := by
  cases h
  split <;> exact ⟨rfl, rfl, rfl⟩

theorem wakeupBody_frame (h : wakeupBody s = .next t) : OutsideBodies s t := by
  cases h
  split <;> exact ⟨rfl, rfl, rfl⟩

/-- Each of the nine handlers is a body that touches no flag, and then the clearing of its own (R222, R235). -/
theorem exec_handler (hi : eventOf i = some e) :
    ∃ body : State → Result, (∀ s, exec i s = handleEvent e body s)
      ∧ ∀ s t, body s = .next t → OutsideBodies s t := by
  cases i <;> cases hi
  case evReset.refl => exact ⟨resetBody, fun _ => rfl, fun _ _ => resetBody_frame⟩
  case evSuspend.refl => exact ⟨suspendBody, fun _ => rfl, fun _ _ => suspendBody_frame⟩
  case evWakeup.refl => exact ⟨wakeupBody, fun _ => rfl, fun _ _ => wakeupBody_frame⟩
  case evEp0In.refl => exact ⟨execCtrlInDone, fun _ => rfl, fun _ _ h => (ctrlInDone_frame h).outsideBodies⟩
  case evEp0Setup.refl => exact ⟨execCtrlSetup, fun _ => rfl, fun _ _ h => (ctrlSetup_frame h).outsideBodies⟩
  case evEp0Out.refl => exact ⟨execCtrlOutDone, fun _ => rfl, fun _ _ h => (ctrlOutDone_frame h).outsideBodies⟩
  case evEp1Out.refl => exact ⟨execBulkOutDone, fun _ => rfl, fun _ _ h => (bulkOutDone_frame h).outsideBodies⟩
  case evEp1In.refl => exact ⟨execBulkInDone, fun _ => rfl, fun _ _ h => (bulkInDone_frame h).outsideBodies⟩
  case evKick.refl => exact ⟨execBulkKick, fun _ => rfl, fun _ _ h => (bulkKick_frame h).outsideBodies⟩

/-- A handler clears the flag of its event and touches neither the queue nor the bridge. -/
theorem exec_handler_frame (hi : eventOf i = some e) (hf : s.fatal = false) (h : exec i s = .next t) :
    t.istat = s.istat.clear e ∧ t.inputs = s.inputs ∧ t.appOp = s.appOp := by
  obtain ⟨body, hexec, hbody⟩ := exec_handler hi
  rw [hexec, handleEvent_eq_next hf] at h
  obtain ⟨u, hu, rfl⟩ := h
  obtain ⟨hinputs, histat, happ⟩ := hbody s u hu
  exact ⟨congrArg (Istat.clear · e) histat, hinputs, happ⟩

theorem exec_handler_fatal (hi : eventOf i = some e) (hf : s.fatal = true) : exec i s = .next s := by
  obtain ⟨body, hexec, -⟩ := exec_handler hi
  rw [hexec, handleEvent_fatal hf]

theorem eventOf_handlerOf (b : Bool) (e : Event) : eventOf (handlerOf b e) = some e := by
  cases e
  case ctEp0Rx => cases b <;> rfl
  all_goals rfl

/-- A handler whose body completes and touches no flag. -/
theorem handleEvent_of_body {body : State → Result} (hf : s.fatal = false) (hb : body s = .next t)
    (hi : t.istat = s.istat) : handleEvent e body s = .next { t with istat := s.istat.clear e } :=
  (handleEvent_eq_next hf).2 ⟨t, hb, by rw [hi]⟩

/-! ## What else touches no flag -/

theorem configureTable_istat (ep : Ep) (tx rx m : Half) (s : State) :
    (configureTable ep tx rx m s).istat = s.istat := by
  unfold configureTable
  split
  · simp
  · rfl

theorem execBdtConfigure_istat {ep : Ep} {tx rx m : Half} (h : execBdtConfigure ep tx rx m s = .next t) :
    t.istat = s.istat := by
  unfold execBdtConfigure at h
  split at h
  · cases h
    exact configureTable_istat ep tx rx m s
  · cases h

theorem setStatus_istat {ep : Ep} {d : Dir} {st : Status} (h : setStatus ep d st s = .next t) : t.istat = s.istat := by
  obtain ⟨-, rfl⟩ := setStatus_eq_next.1 h
  exact setEp_istat _ _ _

theorem toggleData_istat {ep : Ep} {d : Dir} (h : toggleData ep d s = .next t) : t.istat = s.istat := by
  obtain ⟨-, rfl⟩ := toggleData_eq_next.1 h
  exact setEp_istat _ _ _

theorem setTxCount_istat {ep : Ep} {n : Half} (h : setTxCount ep n s = .next t) : t.istat = s.istat := by
  obtain ⟨-, -, rfl⟩ := setTxCount_eq_next.1 h
  exact setBdt_istat _ _ _

theorem execBdtReadRxCount_istat {ep : Ep} (h : execBdtReadRxCount ep s = .next t) : t.istat = s.istat := by
  obtain ⟨n, -, h1⟩ := withValue_eq_next.1 h
  cases h1
  rfl

/-- A request is what `CTRL.SETUP` performs for its packet, so it stays inside endpoint 0. -/
theorem request_frame (k : RequestKind) {rt rq : Byte} {v ix l : Half} (hk : selectRequest rt rq = k)
    (h : exec (requestInstr k rt rq v ix l) s = .next t) : OutsideEp0 s t := by
  subst hk
  rw [← performRequest_eq_exec] at h
  exact performRequest_frame h

/-- The operations but `INIT`, `BR.KICK`, `DISPATCH`, the handlers and the link's touch no flag. -/
theorem exec_istat (hi : eventOf i = none) (hl : isLinkOp i = false) (hinit : i ≠ .init) (hkick : i ≠ .brKick)
    (hd : ∀ w, i ≠ .dispatch w) (h : exec i s = .next t) : t.istat = s.istat := by
  cases i
  case init => exact absurd rfl hinit
  case brKick => exact absurd rfl hkick
  case dispatch w => exact absurd rfl (hd w)
  case bdtConfigure => exact execBdtConfigure_istat h
  case bdtSetTxCount => exact setTxCount_istat h
  case bdtReadRxCount => exact execBdtReadRxCount_istat h
  case epConfigure => cases h; exact setEp_istat _ _ _
  case epSetStatus => exact setStatus_istat h
  case epToggle => exact toggleData_istat h
  case brWrite bytes =>
    obtain ⟨-, rfl⟩ := startBridge_eq_next.1 (show execBrWrite bytes s = .next t from h)
    rfl
  case brRead m =>
    obtain ⟨-, rfl⟩ := startBridge_eq_next.1 (show execBrRead m s = .next t from h)
    rfl
  case brAvail | brSpace | brOverrun =>
    obtain ⟨r, rfl⟩ := query_eq_next (by simp) h
    rfl
  case reqGetStatus => exact (request_frame .getStatus (rt := 0x80) (rq := 0x00) rfl h).istat
  case reqSetAddress => exact (request_frame .setAddress (rt := 0x00) (rq := 0x05) rfl h).istat
  case reqGetDescriptor => exact (request_frame .getDescriptor (rt := 0x80) (rq := 0x06) rfl h).istat
  case reqSetConfiguration => exact (request_frame .setConfiguration (rt := 0x00) (rq := 0x09) rfl h).istat
  case reqSetLineCoding => exact (request_frame .setLineCoding (rt := 0x21) (rq := 0x20) rfl h).istat
  case reqGetLineCoding => exact (request_frame .getLineCoding (rt := 0xA1) (rq := 0x21) rfl h).istat
  case reqSetControlLineState => exact (request_frame .setControlLineState (rt := 0x21) (rq := 0x22) rfl h).istat
  case reqUnsupported => exact (stall0_frame h).istat
  case ctrlSetup => exact (ctrlSetup_frame h).istat
  case ctrlInDone => exact (ctrlInDone_frame h).istat
  case ctrlOutDone => exact (ctrlOutDone_frame h).istat
  case bulkOutDone => exact (bulkOutDone_frame h).istat
  case bulkInDone => exact (bulkInDone_frame h).istat
  case bulkKick => exact (bulkKick_frame h).istat
  case busSetup | busOut | busIn | busReset | busSuspend | busWakeup => cases hl
  all_goals cases hi

/-! ## The device state after a suspend and a wakeup -/

theorem suspendBody_eq (s : State) :
    suspendBody s = .next { s with devState := if s.devState = .configured then .suspended else s.devState } := by
  unfold suspendBody
  split <;> rfl

theorem wakeupBody_eq (s : State) :
    wakeupBody s = .next { s with devState := if s.devState = .suspended then .configured else s.devState } := by
  unfold wakeupBody
  split <;> rfl

end Handlers

/-- Settles O27: a handler is a body that touches no flag and the clearing of its own, and every other operation but
those named is outside the flags. -/
theorem handlersClearOnlyTheirFlags : Obligations.HandlersClearOnlyTheirFlags :=
  ⟨fun _ _ _ _ hi hf h => (exec_handler_frame hi hf h).1, fun _ _ _ hi hf => exec_handler_fatal hi hf,
    fun _ _ _ => exec_istat, fun f e e' => ⟨has_clear f e e', setup_clear f e⟩⟩

/-- Settles O30: endpoint 0 is ready, so each body completes, and it is outside the flags. -/
theorem endpointZeroHandlersRunTheirBodies : Obligations.EndpointZeroHandlersRunTheirBodies := by
  intro s hf h
  obtain ⟨t, ht⟩ := execCtrlInDone_answers h
  obtain ⟨u, hu⟩ := execCtrlSetup_answers h
  obtain ⟨v, hv⟩ := execCtrlOutDone_answers h
  exact ⟨⟨t, ht, handleEvent_of_body (e := .ctEp0Tx) hf ht (ctrlInDone_frame ht).istat⟩,
    ⟨u, hu, handleEvent_of_body (e := .ctEp0Rx) hf hu (ctrlSetup_frame hu).istat⟩,
    v, hv, handleEvent_of_body (e := .ctEp0Rx) hf hv (ctrlOutDone_frame hv).istat⟩

/-- Settles O31: endpoint 1 is ready, so each body completes outside the flags; on an endpoint that is not configured a
body changes nothing. -/
theorem endpointOneHandlersRunTheirBodies : Obligations.EndpointOneHandlersRunTheirBodies := by
  intro s hf
  refine ⟨fun h => ?_, fun hc => ?_⟩
  · obtain ⟨t, ht⟩ := execBulkOutDone_answers fun _ => h
    obtain ⟨u, hu⟩ := execBulkInDone_answers fun _ => h
    obtain ⟨v, hv⟩ := execBulkKick_answers fun _ => h
    exact ⟨⟨t, ht, handleEvent_of_body (e := .ctEp1Rx) hf ht (bulkOutDone_frame ht).istat⟩,
      ⟨u, hu, handleEvent_of_body (e := .ctEp1Tx) hf hu (bulkInDone_frame hu).istat⟩,
      v, hv, handleEvent_of_body (e := .kick) hf hv (bulkKick_frame hv).istat⟩
  · exact ⟨handleEvent_of_body (e := .ctEp1Rx) hf (execBulkOutDone_of_unconfigured hc) rfl,
      handleEvent_of_body (e := .ctEp1Tx) hf (execBulkInDone_of_unconfigured hc) rfl,
      handleEvent_of_body (e := .kick) hf (execBulkKick_of_not_idle (.inl hc)) rfl⟩

/-- Settles O28: the handler is `resetBody` and the clearing of its flag. -/
theorem evResetReinitialisesTheDevice : Obligations.EvResetReinitialisesTheDevice :=
  fun _ hf => handleEvent_of_body (e := .reset) (body := resetBody) hf rfl rfl

/-- Settles O29: each handler is its body, which moves `devState` alone, and the clearing of its flag. -/
theorem suspendAndWakeupMoveOnlyTheirState : Obligations.SuspendAndWakeupMoveOnlyTheirState :=
  fun s hf => ⟨handleEvent_of_body (e := .susp) hf (suspendBody_eq s) rfl,
    handleEvent_of_body (e := .wkup) hf (wakeupBody_eq s) rfl⟩

section Dispatch
variable {s t : State} {f : Istat} {e : Event}

/-! ## One step of `DISPATCH` -/

/-- With no invocation running and a flag raised: the entry step (R221). -/
theorem execDispatch_of_entry (hf : s.fatal = false) (hd : s.dispSnap = none) (hi : s.istat.irq = true) (w : Half) :
    execDispatch w s = .next (enterInvocation s) := by
  simp [execDispatch, hf, hd, hi]

/-- Inside an invocation: the handler step (R222). -/
theorem execDispatch_of_snapshot (hf : s.fatal = false) (hd : s.dispSnap = some f) (w : Half) :
    execDispatch w s = handlerStep f s := by
  simp [execDispatch, hf, hd]

theorem execDispatch_of_no_step (h : s.fatal = true ∨ (s.dispSnap = none ∧ s.istat.irq = false)) (w : Half) :
    execDispatch w s = .next s := by
  obtain hf | ⟨hd, hi⟩ := h
  · simp [execDispatch, hf]
  · simp [execDispatch, hd, hi]

/-- The handler step runs the handler of the first event, if ISTAT still has it, and goes on with the rest. -/
theorem handlerStep_of_first (he : f.firstEvent = some e) :
    handlerStep f s = andThen (if s.istat.has e then exec (handlerOf s.istat.setup e) s else .next s)
      fun u => .next (leaveEvent f e u) := by
  have hi : f.irq = true := irq_of_has (firstEvent_has he)
  rw [handlerStep, if_neg (by simp [hi]), he, ← runHandler_eq_exec]

theorem handlerStep_of_empty (hi : f.irq = false) : handlerStep f s = .next { s with dispSnap := none } :=
  if_pos hi

/-- A snapshot with `setup` alone (spec/93_implementation_defined.md F8). -/
theorem handlerStep_of_setup_alone (hs : f.setup = true) (hn : ∀ e, f.has e = false) :
    handlerStep f s = .refused .noEventSelected := by
  have hi : f.irq = true := by simp [Istat.irq, hs]
  rw [handlerStep, if_neg (by simp [hi]), firstEvent_eq_none hn]

/-- One handler step of an invocation: the first event is gone from the snapshot and from ISTAT. -/
structure EventHandled (f : Istat) (e : Event) (s t : State) : Prop where
  inSnapshot : f.has e = true
  dispSnap : t.dispSnap = if (f.clear e).irq then some (f.clear e) else none
  istat : t.istat = s.istat.clear e
  inputs : t.inputs = s.inputs
  appOp : t.appOp = s.appOp

/-- The event's flag is gone from ISTAT as well when a bus reset took it before the step. -/
theorem execDispatch_handles (h : s.Invariant) (hd : s.dispSnap = some f) (w : Half) :
    ∃ e t, execDispatch w s = .next t ∧ EventHandled f e s t := by
  obtain ⟨hi, hs⟩ := h.snapshot f hd
  obtain ⟨e, he⟩ := firstEvent_of_irq hi hs
  obtain ⟨t, ht⟩ := execDispatch_answers h w
  have hstep := ht
  rw [execDispatch_of_snapshot h.notFatal hd, handlerStep_of_first he, andThen_eq_next] at hstep
  obtain ⟨u, hu, hleave⟩ := hstep
  cases hleave
  refine ⟨e, _, ht, ?_⟩
  by_cases hhas : s.istat.has e = true
  · rw [if_pos hhas] at hu
    obtain ⟨histat, hinputs, happ⟩ := exec_handler_frame (eventOf_handlerOf _ e) h.notFatal hu
    exact ⟨firstEvent_has he, rfl, histat, hinputs, happ⟩
  · rw [if_neg hhas] at hu
    cases hu
    exact ⟨firstEvent_has he, rfl, (clear_of_absent h.setupQualifies (by simpa using hhas)).symm, rfl, rfl⟩

/-! ## A whole invocation -/

/-- Every event that stands in ISTAT is still to come in the invocation. -/
def State.Covered (s : State) : Prop := ∀ e, s.istat.has e = true → ∃ f, s.dispSnap = some f ∧ f.has e = true

theorem covered_enterInvocation (s : State) : (enterInvocation s).Covered := fun _ he => ⟨s.istat, rfl, he⟩

theorem covered_of_handled (hd : s.dispSnap = some f) (h : EventHandled f e s t) (hc : s.Covered) : t.Covered := by
  intro e' he'
  rw [h.istat, has_clear_eq_true] at he'
  obtain ⟨hne, hhas⟩ := he'
  obtain ⟨g, hg, hin⟩ := hc e' hhas
  obtain rfl : f = g := Option.some.inj (hd.symm.trans hg)
  have hleft : (f.clear e).has e' = true := has_clear_eq_true.2 ⟨hne, hin⟩
  exact ⟨f.clear e, by rw [h.dispSnap, if_pos (irq_of_has hleft)], hleft⟩

/-- When the invocation is over, a covered ISTAT has no flag. -/
theorem irq_of_covered (h : s.Invariant) (hd : s.dispSnap = none) (hc : s.Covered) : s.istat.irq = false := by
  refine irq_of_no_event h.setupQualifies fun e => ?_
  by_contra he
  obtain ⟨f, hf, -⟩ := hc e (by simpa using he)
  simp [hd] at hf

/-- An invocation that stands at `s` has ended at `t`. -/
structure InvocationEnds (s t : State) : Prop where
  invariant : t.Invariant
  dispSnap : t.dispSnap = none
  covered : s.Covered → t.Covered
  inputs : t.inputs = s.inputs
  appOp : t.appOp = s.appOp

theorem handlerSteps_of_ended (hd : s.dispSnap = none) (n : Nat) : handlerSteps n s = .next s := by
  cases n
  · rfl
  · rw [handlerSteps, hd]

theorem handlerSteps_of_snapshot (hd : s.dispSnap = some f) (n : Nat) :
    handlerSteps (n + 1) s = andThen (execDispatch s.dispatchWord s) (handlerSteps n) := by
  rw [handlerSteps, hd]

/-- As many handler steps as the snapshot has events end the invocation. -/
theorem handlerSteps_end (n : Nat) (h : s.Invariant) (hn : ∀ f, s.dispSnap = some f → f.eventCount ≤ n) :
    ∃ t, handlerSteps n s = .next t ∧ InvocationEnds s t := by
  induction n generalizing s with
  | zero =>
    cases hd : s.dispSnap with
    | none => exact ⟨s, handlerSteps_of_ended hd 0, h, hd, id, rfl, rfl⟩
    | some f =>
      obtain ⟨e, u, -, hu⟩ := execDispatch_handles h hd 0
      exact absurd (hn f hd) (Nat.not_le.2 (eventCount_pos hu.inSnapshot))
  | succ n ih =>
    cases hd : s.dispSnap with
    | none => exact ⟨s, handlerSteps_of_ended hd _, h, hd, id, rfl, rfl⟩
    | some f =>
      obtain ⟨e, u, hstep, hu⟩ := execDispatch_handles h hd s.dispatchWord
      have hleft : ∀ g, u.dispSnap = some g → g.eventCount ≤ n := fun g hg => by
        rw [hu.dispSnap] at hg
        split at hg
        · cases hg
          exact Nat.le_of_lt_succ (Nat.lt_of_lt_of_le (eventCount_clear_lt hu.inSnapshot) (hn f hd))
        · cases hg
      obtain ⟨t, ht, hend⟩ := ih (execDispatch_invariant h hstep) hleft
      refine ⟨t, ?_, hend.invariant, hend.dispSnap, fun hc => hend.covered (covered_of_handled hd hu hc),
        hend.inputs.trans hu.inputs, hend.appOp.trans hu.appOp⟩
      rw [handlerSteps_of_snapshot hd, andThen_of_next hstep, ht]

theorem enterInvocation_invariant (h : s.Invariant) (hd : s.dispSnap = none) (hi : s.istat.irq = true) :
    (enterInvocation s).Invariant :=
  execDispatch_invariant h (execDispatch_of_entry h.notFatal hd hi 0)

/-- An invocation that is running is finished. -/
theorem invocation_of_snapshot (hf : s.fatal = false) (hd : s.dispSnap = some f) :
    invocation s = handlerSteps 10 s := by
  rw [handlerSteps_of_snapshot hd, invocation, if_pos (dispatcherHasStep_iff.2 ⟨hf, .inl (by simp [hd])⟩)]

/-- An invocation that is not running is entered, and its handler steps follow. -/
theorem invocation_of_irq (hf : s.fatal = false) (hd : s.dispSnap = none) (hi : s.istat.irq = true) :
    invocation s = handlerSteps 9 (enterInvocation s) := by
  rw [invocation, if_pos (dispatcherHasStep_iff.2 ⟨hf, .inr hi⟩),
    andThen_of_next (execDispatch_of_entry hf hd hi _)]

theorem invocation_of_quiet (hd : s.dispSnap = none) (hi : s.istat.irq = false) : invocation s = .next s :=
  if_neg (by simp [dispatcherHasStep_iff, hd, hi])

end Dispatch

/-- Settles O25: the entry step, for every word. -/
theorem dispatchEntersWithASnapshot : Obligations.DispatchEntersWithASnapshot :=
  fun _ w hf hd hi => execDispatch_of_entry hf hd hi w

/-- Settles O26: the event of lowest priority number is the first of the order, and a snapshot with no event is empty or
has `setup` alone. -/
theorem dispatchHandlesTheFirstEvent : Obligations.DispatchHandlesTheFirstEvent := by
  refine ⟨fun s snap w hf hd => ?_, fun s w h => execDispatch_of_no_step h w⟩
  have hstep : exec (.dispatch w) s = handlerStep snap s := execDispatch_of_snapshot hf hd w
  rw [hstep]
  exact ⟨fun e he hl => handlerStep_of_first (firstEvent_of_lowest he hl), handlerStep_of_empty,
    handlerStep_of_setup_alone⟩

/-- Settles O56: a snapshot has at most eight events, so the handler steps suffice; entered afresh it covers ISTAT. -/
theorem anInvocationHandlesEveryFlag : Obligations.AnInvocationHandlesEveryFlag := by
  intro s h
  cases hd : s.dispSnap with
  | some f =>
    obtain ⟨t, ht, hend⟩ := handlerSteps_end 10 h fun g _ => Nat.le_trans (eventCount_le g) (by decide)
    exact ⟨t, (invocation_of_snapshot h.notFatal hd).trans ht, hend.invariant, hend.dispSnap, nofun, hend.inputs,
      hend.appOp⟩
  | none =>
    cases hi : s.istat.irq with
    | false => exact ⟨s, invocation_of_quiet hd hi, h, hd, fun _ => hi, rfl, rfl⟩
    | true =>
      obtain ⟨t, ht, hend⟩ := handlerSteps_end 9 (enterInvocation_invariant h hd hi)
        fun g _ => Nat.le_trans (eventCount_le g) (by decide)
      have hclear := irq_of_covered hend.invariant hend.dispSnap (hend.covered (covered_enterInvocation s))
      exact ⟨t, (invocation_of_irq h.notFatal hd hi).trans ht, hend.invariant, hend.dispSnap, fun _ => hclear,
        hend.inputs, hend.appOp⟩

end Sys2Proof.Machine
end

section
/-! The micro-steps of the bridge (spec/45_bridge.md): the snapshot, the loop and the publish of `BR.WRITE` (O17) and of
`BR.READ` (O18), the queries and the kick (O22). -/

namespace Sys2Proof.Machine

/-! ## Which micro-step is next -/

section MicroStep
variable {s : State} {op : AppOp}

theorem appMicroStep_of_store {b : Byte} (ho : s.appOp = some op) (hw : op.kind = .write) (hi : op.i < op.k)
    (hb : op.bytes[op.i]? = some b) : appMicroStep s = .next (writeOne op b s) := by
  simp [appMicroStep, ho, hw, hi, hb]

theorem appMicroStep_of_stored (ho : s.appOp = some op) (hw : op.kind = .write) (hk : op.k ≤ op.i) :
    appMicroStep s = .next (publishWrite op s) := by
  simp [appMicroStep, ho, hw, Nat.not_lt.2 hk]

theorem appMicroStep_of_load (ho : s.appOp = some op) (hr : op.kind = .read) (hi : op.i < op.k) :
    appMicroStep s = .next (readOne op s) := by
  simp [appMicroStep, ho, hr, hi]

theorem appMicroStep_of_loaded (ho : s.appOp = some op) (hr : op.kind = .read) (hk : op.k ≤ op.i) :
    appMicroStep s = .next (publishRead op s) := by
  simp [appMicroStep, ho, hr, Nat.not_lt.2 hk]

end MicroStep

/-- W2 stores into the slot of count `h + i` and into no other. -/
theorem txSlot_writeOne (op : AppOp) (b : Byte) (s : State) (j : Nat) :
    (writeOne op b s).txSlot j
      = if j = (op.h + BitVec.ofNat 16 op.i).toNat % s.params.txCap then b else s.txSlot j := by
  simp only [State.txSlot, writeOne, ringStore, memory_read_write]
  split <;> rfl

/-- Settles O17: W1 is the operation's body, and a micro-step stores while `i < k` and publishes from `k` on. -/
theorem brWriteSnapshotsStoresAndPublishes : Obligations.BrWriteSnapshotsStoresAndPublishes := by
  refine ⟨fun s bytes hidle => ?snapshot, fun s op b ho hw hi hb => ?store, fun s op ho hw hk => ?publish⟩
  case snapshot => rw [exec, execBrWrite, startBridge_of_idle hidle, Ring.space, Ring.count]
  case store => exact ⟨writeOne op b s, appMicroStep_of_store ho hw hi hb, rfl, txSlot_writeOne op b s⟩
  case publish => exact appMicroStep_of_stored ho hw hk

/-- Settles O18: R1 is the operation's body, and a micro-step loads while `i < k` and publishes from `k` on. -/
theorem brReadSnapshotsLoadsAndPublishes : Obligations.BrReadSnapshotsLoadsAndPublishes := by
  refine ⟨fun s m hidle => ?snapshot, fun s op ho hr hi => ?load, fun s op ho hr hk => ?publish⟩
  case snapshot => rw [exec, execBrRead, startBridge_of_idle hidle, Ring.count]
  case load => exact appMicroStep_of_load ho hr hi
  case publish => exact appMicroStep_of_loaded ho hr hk

/-- Settles O22: each of the four operations is its body when none is in progress. -/
theorem queriesReturnAndKickRaisesItsFlag : Obligations.QueriesReturnAndKickRaisesItsFlag := by
  refine fun s hidle => ⟨?avail, ?space, ?overrun, ?kick⟩
  case avail => rw [exec, execBrAvail, startBridge_of_idle hidle, Ring.count]
  case space => rw [exec, execBrSpace, startBridge_of_idle hidle, Ring.space, Ring.count]
  case overrun => rw [exec, execBrOverrun, startBridge_of_idle hidle]
  case kick => rw [exec, execBrKick, startBridge_of_idle hidle]

end Sys2Proof.Machine
end

section
/-! The link (spec/46_bus_link.md): whom a token addresses and what each bus operation does then (O46 to O51), and from
the list of all effects of a link operation what none of them writes (O52). -/

namespace Sys2Proof.Machine

section Link
variable {s t : State} {addr : BitVec 7} {endp : BitVec 4} {e : Ep} {tog ack : Bool} {data : List Byte}

/-! ## Applying the requests -/

theorem applied_eq_getD (req : Option Status) (st : Status) : applied req st = req.getD st := by
  cases req <;> rfl

theorem applyRequests_ep (s : State) (e : Ep) : (applyRequests s).ep e = (s.ep e).applyRequests := by
  cases e <;> rfl

/-- A requested status is in force once the requests are applied. -/
theorem stat_applyRequests_request (x : Endpoint) (d : Dir) (st : Status) :
    (x.request d st).applyRequests.stat d = st := by
  cases d <;> rfl

/-! ## The endpoint a token addresses -/

theorem endpOf_eq_some_iff : endpOf endp = some e ↔ endp.setWidth 8 = e.number := by
  cases e <;> revert endp <;> decide

/-- The filters of R261 and R262 let through the device's address with the number of an endpoint laid out. -/
theorem tokenTarget_eq_some_iff :
    tokenTarget addr endp s = some e ↔
      addr = s.devAddr ∧ endp.setWidth 8 = e.number ∧ s.bdtConfigured e = true := by
  refine ⟨fun h => ?_, fun ⟨ha, he, hb⟩ => tokenTarget_eq_some ha he hb⟩
  unfold tokenTarget at h
  split at h
  · split at h
    · split at h
      · cases h
        exact ⟨‹_›, endpOf_eq_some_iff.1 ‹_›, ‹_›⟩
      · cases h
    · cases h
  · cases h

theorem tokenTarget_eq_ep0_iff :
    tokenTarget addr endp s = some .ep0 ↔ addr = s.devAddr ∧ endp = 0 ∧ s.bdtConfigured0 = true := by
  have hzero : endp.setWidth 8 = Ep.number .ep0 ↔ endp = 0 := by
    revert endp
    decide
  rw [tokenTarget_eq_some_iff, hzero, bdtConfigured_ep0]

/-- A token to another device, to an endpoint that does not exist or to one not laid out addresses nobody. -/
theorem tokenTarget_eq_none (h : addr ≠ s.devAddr ∨ 2 ≤ endp.toNat ∨ (endp = 0 ∧ s.bdtConfigured0 = false)
    ∨ (endp = 1 ∧ s.bdtConfigured1 = false)) : tokenTarget addr endp s = none := by
  refine Option.eq_none_iff_forall_ne_some.2 fun e ht => ?_
  obtain ⟨ha, he, hb⟩ := tokenTarget_eq_some_iff.1 ht
  have hnum : endp.toNat = e.number.toNat := by
    rw [← he, BitVec.toNat_setWidth_of_le (by decide)]
  obtain h | h | ⟨rfl, hc⟩ | ⟨rfl, hc⟩ := h
  · exact h ha
  · cases e <;> simp [Ep.number] at hnum <;> omega
  · cases e
    · exact Bool.eq_false_iff.1 hc hb
    · cases he
  · cases e
    · cases he
    · exact Bool.eq_false_iff.1 hc hb

/-! ## Which part of a token's operation runs -/

section Running
variable (hf : s.fatal = false)
include hf

theorem execBusOut_of_target (ht : tokenTarget addr endp s = some e) :
    execBusOut addr endp tog data s
      = answerByStatus ((applyRequests s).ep e).rxStat (performOut e tog data) (applyRequests s) := by
  rw [execBusOut, linkStep_of_running hf, tokenTarget_applyRequests, ht]

theorem execBusOut_of_nobody (ht : tokenTarget addr endp s = none) :
    execBusOut addr endp tog data s = .next (respond .silent (applyRequests s)) := by
  rw [execBusOut, linkStep_of_running hf, tokenTarget_applyRequests, ht]

theorem execBusIn_of_target (ht : tokenTarget addr endp s = some e) :
    execBusIn addr endp ack s
      = answerByStatus ((applyRequests s).ep e).txStat (performIn e ack) (applyRequests s) := by
  rw [execBusIn, linkStep_of_running hf, tokenTarget_applyRequests, ht]

theorem execBusIn_of_nobody (ht : tokenTarget addr endp s = none) :
    execBusIn addr endp ack s = .next (respond .silent (applyRequests s)) := by
  rw [execBusIn, linkStep_of_running hf, tokenTarget_applyRequests, ht]

theorem execBusSetup_of_ep0 (ht : tokenTarget addr endp s = some .ep0) :
    execBusSetup addr endp data s
      = if data.length ≠ 8 ∨ (applyRequests s).ep0.rxStat = .disabled ∨ s.bdt0.rxMaxCount.toNat < 8 then
          .next (respond .silent (applyRequests s))
        else acceptSetup data (applyRequests s) := by
  rw [execBusSetup, linkStep_of_running hf, tokenTarget_applyRequests, ht]
  rfl

theorem execBusSetup_of_not_ep0 (ht : tokenTarget addr endp s ≠ some .ep0) :
    execBusSetup addr endp data s = .next (respond .silent (applyRequests s)) := by
  rw [execBusSetup, linkStep_of_running hf, tokenTarget_applyRequests]
  match h : tokenTarget addr endp s with
  | none => rfl
  | some .ep0 => exact absurd h ht
  | some .ep1 => rfl

end Running

/-! ## The states that a packet and a bus condition lead to -/

/-- The block after a SETUP packet was taken. -/
def State.setupTaken (data : List Byte) (s : State) : State :=
  { applyRequests s with
    bdt0 := { s.bdt0 with rxCount := 8 }
    ep0 := { (applyRequests s).ep0 with txStat := .nak, rxStat := .nak }
    istat := { s.istat with ctEp0Rx := true, setup := true }
    busResp := .handshake .ack
    pma := writtenPma s s.bdt0.rxOffset.toNat data
    draws := writtenDraws s s.bdt0.rxOffset.toNat data }

/-- The block after `BUS.RESET`. -/
def State.busReset (s : State) : State :=
  { s with
    ep0 := s.ep0.onBusReset
    ep1 := s.ep1.onBusReset
    devAddr := 0
    istat := s.istat.onBusReset
    busResp := .silent }

theorem execBusReset_of_running (hf : s.fatal = false) : execBusReset s = .next s.busReset :=
  linkStep_of_running hf

theorem execBusSuspend_of_running (hf : s.fatal = false) :
    execBusSuspend s = .next (respond .silent { applyRequests s with istat := { s.istat with susp := true } }) :=
  linkStep_of_running hf

theorem execBusWakeup_of_running (hf : s.fatal = false) :
    execBusWakeup s = .next (respond .silent { applyRequests s with istat := { s.istat with wkup := true } }) :=
  linkStep_of_running hf

theorem acceptSetup_of_fits (hb : entryOk s.params s.bdt0) (hd : data.length ≤ s.bdt0.rxMaxCount.toNat) :
    acceptSetup data (applyRequests s) = .next (s.setupTaken data) := by
  obtain ⟨-, heven, -, hlow, -, hmax, -, -, -, hhigh⟩ := hb
  exact andThen_of_next (pmaWrite_of_inside (s := applyRequests s) (Nat.le_trans hd hmax) heven hlow
    (Nat.le_trans (Nat.add_le_add_left hd _) hhigh)) _

/-- The bytes of a SETUP fill whole 16-bit units, so no byte behind them is left unspecified (R74). -/
theorem writtenDraws_of_even {a : Nat} (h : data.length % 2 = 0) : writtenDraws s a data = s.draws :=
  if_neg fun ⟨hodd, _⟩ => by omega

/-- Without the host's ACK only the response tells that the packet was sent. -/
theorem performIn_unacked (hb : entryOk s.params (s.bdt e)) :
    performIn e false (applyRequests s)
      = .next (respond (.packet (s.ep e).txToggle (s.pmaBytes (s.bdt e).txOffset.toNat (s.bdt e).txCount.toNat) false)
          (applyRequests s)) := by
  have hr := pmaRead_tx (s := applyRequests s) (b := s.bdt e) hb
  rw [pmaBytes_of_pma_eq (s := s) (t := applyRequests s) rfl] at hr
  rw [performIn, applyRequests_bdt, withValue_of_ok hr, applyRequests_txToggle]
  rfl

/-! ## Everything a link operation can do -/

/-- The effects of a link operation, one for each way to end in spec/46_bus_link.md. -/
inductive LinkEffect (s : State) : State → Prop where
  /-- `fatal`, R333 -/
  | ignored : LinkEffect s (respond .silent s)
  /-- answered with no change but the requests put in force, R260 -/
  | answered (r : BusResponse) : LinkEffect s (respond r (applyRequests s))
  /-- R264 -/
  | setupTaken (data : List Byte) (hd : data.length ≤ s.bdt0.rxMaxCount.toNat) : LinkEffect s (s.setupTaken data)
  /-- R266 -/
  | outTaken (e : Ep) (data : List Byte) (hd : data.length ≤ (s.bdt e).rxMaxCount.toNat) :
      LinkEffect s (s.outTaken e data)
  /-- R269, the host's ACK arrived -/
  | inSent (e : Ep) : LinkEffect s (s.inSent e)
  /-- R272 -/
  | reset : LinkEffect s s.busReset
  /-- R274 -/
  | suspended : LinkEffect s (respond .silent { applyRequests s with istat := { s.istat with susp := true } })
  /-- R275 -/
  | woken : LinkEffect s (respond .silent { applyRequests s with istat := { s.istat with wkup := true } })

/-- Whatever the table entry says, a SETUP that is stored leaves this state. -/
theorem acceptSetup_eq_setupTaken (h : acceptSetup data (applyRequests s) = .next t) : t = s.setupTaken data := by
  obtain ⟨u, hw, hu⟩ := andThen_eq_next.1 h
  obtain ⟨-, rfl⟩ := pmaWrite_eq_next.1 hw
  cases hu
  rfl

theorem acceptOut_eq_outTaken (h : acceptOut e data (applyRequests s) = .next t) : t = s.outTaken e data := by
  obtain ⟨u, hw, hu⟩ := andThen_eq_next.1 h
  obtain ⟨-, rfl⟩ := pmaWrite_eq_next.1 hw
  cases hu
  cases e <;> rfl

theorem performOut_effect (h : performOut e tog data (applyRequests s) = .next t) : LinkEffect s t := by
  unfold performOut at h
  split at h
  · cases h
    exact .answered _
  · rename_i hfit
    split at h
    · cases h
      exact .answered _
    · rw [acceptOut_eq_outTaken h]
      rw [applyRequests_bdt] at hfit
      exact .outTaken e data (Nat.le_of_not_lt hfit)

theorem performIn_effect (h : performIn e ack (applyRequests s) = .next t) : LinkEffect s t := by
  obtain ⟨d, hd, h1⟩ := withValue_eq_next.1 h
  obtain ⟨-, rfl⟩ := pmaRead_eq_ok.1 hd
  cases ack
  · cases h1
    exact .answered _
  · have hsent : t = s.inSent e := by
      rw [← Host.Outcome.next.inj h1, pmaBytes_of_pma_eq (s := s) (t := applyRequests s) rfl]
      cases e <;> rfl
    exact hsent ▸ .inSent e

/-- An answer by status is an answer alone, or what a Valid endpoint does. -/
theorem answerByStatus_effect {st : Status} {perform : State → Result}
    (hp : perform (applyRequests s) = .next t → LinkEffect s t)
    (h : answerByStatus st perform (applyRequests s) = .next t) : LinkEffect s t := by
  cases st
  case valid => exact hp h
  all_goals
    cases h
    exact .answered _

theorem execBusSetup_effect (hf : s.fatal = false) (h : execBusSetup addr endp data s = .next t) : LinkEffect s t := by
  by_cases ht : tokenTarget addr endp s = some .ep0
  · rw [execBusSetup_of_ep0 hf ht] at h
    split at h
    · cases h
      exact .answered _
    · rename_i hg
      rw [acceptSetup_eq_setupTaken h]
      exact .setupTaken data (by omega)
  · rw [execBusSetup_of_not_ep0 hf ht] at h
    cases h
    exact .answered _

theorem execBusOut_effect (hf : s.fatal = false) (h : execBusOut addr endp tog data s = .next t) : LinkEffect s t := by
  match ht : tokenTarget addr endp s with
  | some e =>
    rw [execBusOut_of_target hf ht] at h
    exact answerByStatus_effect performOut_effect h
  | none =>
    rw [execBusOut_of_nobody hf ht] at h
    cases h
    exact .answered _

theorem execBusIn_effect (hf : s.fatal = false) (h : execBusIn addr endp ack s = .next t) : LinkEffect s t := by
  match ht : tokenTarget addr endp s with
  | some e =>
    rw [execBusIn_of_target hf ht] at h
    exact answerByStatus_effect performIn_effect h
  | none =>
    rw [execBusIn_of_nobody hf ht] at h
    cases h
    exact .answered _

/-- With `fatal` every link operation is ignored (R333). -/
theorem linkOp_of_fatal {i : Instr} (hi : isLinkOp i = true) (hf : s.fatal = true) :
    exec i s = .next (respond .silent s) := by
  cases i
  case busSetup | busOut | busIn | busReset | busSuspend | busWakeup =>
    simp only [exec]
    exact linkStep_fatal hf
  all_goals cases hi

/-- A link operation that answers a next state has one of these effects. -/
theorem linkOp_effect {i : Instr} (hi : isLinkOp i = true) (h : exec i s = .next t) : LinkEffect s t := by
  cases hf : s.fatal
  case true =>
    cases (linkOp_of_fatal hi hf).symm.trans h
    exact .ignored
  cases i
  case busSetup => exact execBusSetup_effect hf h
  case busOut => exact execBusOut_effect hf h
  case busIn => exact execBusIn_effect hf h
  case busReset =>
    cases (execBusReset_of_running hf).symm.trans h
    exact .reset
  case busSuspend =>
    cases (execBusSuspend_of_running hf).symm.trans h
    exact .suspended
  case busWakeup =>
    cases (execBusWakeup_of_running hf).symm.trans h
    exact .woken
  all_goals cases hi

/-! ## What no effect of the link writes -/

/-- `x` with the registers that the link may write taken from `y` (R276). -/
def Endpoint.withLinkPart (x y : Endpoint) : Endpoint :=
  { x with
    txStat := y.txStat, rxStat := y.rxStat, txStatReq := y.txStatReq, rxStatReq := y.rxStatReq
    configured := y.configured }

/-- `s` with what the link may write taken from `t` (R276). -/
def State.withLinkPart (s t : State) : State :=
  { s with
    ep0 := s.ep0.withLinkPart t.ep0
    ep1 := s.ep1.withLinkPart t.ep1
    bdt0 := { s.bdt0 with rxCount := t.bdt0.rxCount }
    bdt1 := { s.bdt1 with rxCount := t.bdt1.rxCount }
    devAddr := t.devAddr
    istat := t.istat
    pma := t.pma
    draws := t.draws
    busResp := t.busResp }

theorem LinkEffect.eq_withLinkPart (h : LinkEffect s t) : t = s.withLinkPart t := by
  cases h
  case outTaken e _ _ => cases e <;> rfl
  case inSent e => cases e <;> rfl
  all_goals rfl

/-- No effect of the link clears a flag of a bus condition, and `kick` is not the link's. -/
theorem LinkEffect.conditions (h : LinkEffect s t) :
    (s.istat.reset = true → t.istat.reset = true) ∧ (s.istat.susp = true → t.istat.susp = true)
      ∧ (s.istat.wkup = true → t.istat.wkup = true) ∧ t.istat.kick = s.istat.kick := by
  cases h
  case outTaken e _ _ => cases e <;> exact ⟨id, id, id, rfl⟩
  case inSent e => cases e <;> exact ⟨id, id, id, rfl⟩
  case reset => exact ⟨fun _ => rfl, id, id, rfl⟩
  case suspended => exact ⟨id, fun _ => rfl, id, rfl⟩
  case woken => exact ⟨id, id, fun _ => rfl, rfl⟩
  all_goals exact ⟨id, id, id, rfl⟩

/-- Where the block does not acknowledge, no receive flag rises. -/
theorem LinkEffect.received (h : LinkEffect s t) :
    t.busResp = .handshake .ack
      ∨ (t.istat.ctEp0Rx = true → s.istat.ctEp0Rx = true) ∧ (t.istat.ctEp1Rx = true → s.istat.ctEp1Rx = true) := by
  cases h
  case setupTaken | outTaken => exact .inl rfl
  case inSent e => cases e <;> exact .inr ⟨id, id⟩
  case reset => exact .inr ⟨nofun, nofun⟩
  all_goals exact .inr ⟨id, id⟩

/-- Where the host does not acknowledge a packet, no transmit flag rises. -/
theorem LinkEffect.sent (h : LinkEffect s t) :
    (∃ tog d, t.busResp = .packet tog d true)
      ∨ (t.istat.ctEp0Tx = true → s.istat.ctEp0Tx = true) ∧ (t.istat.ctEp1Tx = true → s.istat.ctEp1Tx = true) := by
  cases h
  case inSent => exact .inl ⟨_, _, rfl⟩
  case outTaken e _ _ => cases e <;> exact .inr ⟨id, id⟩
  case reset => exact .inr ⟨nofun, nofun⟩
  all_goals exact .inr ⟨id, id⟩

/-- Packet memory changes only where a packet is taken, inside its receive region (R74, R276). -/
theorem LinkEffect.memory (h : LinkEffect s t) (hp : t.pma ≠ s.pma) :
    ∃ (e : Ep) (n : Nat), t.busResp = .handshake .ack ∧ n ≤ (s.bdt e).rxMaxCount.toNat
      ∧ SamePmaOutside (s.bdt e).rxOffset.toNat n s t := by
  cases h
  case setupTaken data hd => exact ⟨.ep0, data.length, rfl, hd, samePmaOutside_written s _ _ data rfl⟩
  case outTaken e data hd => exact ⟨e, data.length, rfl, hd, samePmaOutside_written s _ _ data rfl⟩
  case inSent e => cases e <;> exact absurd rfl hp
  all_goals exact absurd rfl hp

end Link

/-- Neither of two flags rises if each is set after the step only where it was set before. -/
theorem no_flag_rises {a a' b b' : Bool} (ha : a' = true → a = true) (hb : b' = true → b = true) :
    ¬ ((a = false ∧ a' = true) ∨ (b = false ∧ b' = true)) := by
  rintro (⟨hclear, hset⟩ | ⟨hclear, hset⟩)
  · exact Bool.eq_false_iff.1 hclear (ha hset)
  · exact Bool.eq_false_iff.1 hclear (hb hset)

/-! ## The obligations -/

/-- Settles O46: a request is `applied` exactly where it stands, and the two bus conditions are link steps. -/
theorem linkStepsApplyRequestsFirst : Obligations.LinkStepsApplyRequestsFirst := by
  refine ⟨fun s => ?applied, fun s t e d st h => ?inForce, fun s hf => ?conditions⟩
  case applied => simp only [applyRequests, Endpoint.applyRequests, applied_eq_getD]
  case inForce =>
    obtain ⟨-, rfl⟩ := setStatus_eq_next.1 h
    rw [applyRequests_ep, ep_setEp_same, stat_applyRequests_request]
  case conditions => exact ⟨execBusSuspend_of_running hf, execBusWakeup_of_running hf⟩

/-- Settles O47: the filters select endpoint 0 exactly on the first three conditions; the test of R264 is the rest. -/
theorem busSetupIsTakenWheneverEnabled : Obligations.BusSetupIsTakenWheneverEnabled := by
  intro s addr endp data hf
  refine ⟨fun ⟨ha, he, hb, hlen, hstat, hmax⟩ hentry => ?taken, fun hnot => ?silent⟩
  case taken =>
    have ht : tokenTarget addr endp s = some .ep0 := tokenTarget_eq_ep0_iff.2 ⟨ha, he, hb⟩
    have hexec : exec (.busSetup addr endp data) s = .next (s.setupTaken data) :=
      (execBusSetup_of_ep0 hf ht).trans <| (if_neg (by simp [hlen, hstat, hmax])).trans <|
        acceptSetup_of_fits hentry (hlen.trans_le hmax)
    refine ⟨s.setupTaken data, hexec, ?_, ?_, ?_⟩
    · rw [State.setupTaken, writtenDraws_of_even (by omega)]
      rfl
    · exact hlen ▸ pmaBytes_written s _ _ data rfl
    · exact hlen ▸ samePmaOutside_written s _ _ data rfl
  case silent =>
    by_cases ht : tokenTarget addr endp s = some .ep0
    · obtain ⟨ha, he, hb⟩ := tokenTarget_eq_ep0_iff.1 ht
      refine (execBusSetup_of_ep0 hf ht).trans (if_pos ?_)
      by_contra hg
      obtain ⟨hlen, hstat, hmax⟩ : _ ∧ _ ∧ _ := by simpa only [not_or] using hg
      exact hnot ⟨ha, he, hb, not_not.1 hlen, hstat, Nat.le_of_not_lt hmax⟩
    · exact execBusSetup_of_not_ep0 hf ht

/-- Settles O48: the answer by status, then the three tests of a Valid endpoint. -/
theorem busOutIsAnsweredByStatus : Obligations.BusOutIsAnsweredByStatus := by
  intro s addr endp e tog data hf ha he hb
  have ht : tokenTarget addr endp s = some e := tokenTarget_eq_some ha he hb
  have hexec : exec (.busOut addr endp tog data) s = _ := execBusOut_of_target hf ht
  refine ⟨fun hs => ?disabled, fun hs => ?stall, fun hs => ?nak,
    fun hs => ⟨fun hlong => ?tooLong, fun hfit htog => ?repeated, fun hfit htog hentry => ?taken⟩⟩
  case disabled | stall | nak =>
    rw [hexec, hs]
    rfl
  case tooLong =>
    rw [hexec, hs]
    exact if_pos (by simpa using hlong)
  case repeated =>
    rw [hexec, hs]
    exact (if_neg (by simpa using hfit)).trans (if_pos (by simpa using htog))
  case taken =>
    refine ⟨s.outTaken e data, execBusOut_of_valid hf ht hs hentry hfit htog, ?_,
      pmaBytes_written s _ _ data rfl, samePmaOutside_written s _ _ data rfl⟩
    cases e <;> rfl

/-- Settles O49: the answer by status, then the packet with and without the host's ACK. -/
theorem busInSendsTheArmedPacket : Obligations.BusInSendsTheArmedPacket := by
  intro s addr endp e hf ha he hb
  have ht : tokenTarget addr endp s = some e := tokenTarget_eq_some ha he hb
  have hexec (ack : Bool) : exec (.busIn addr endp ack) s = _ := execBusIn_of_target hf ht
  refine ⟨fun ack => ⟨fun hs => ?disabled, fun hs => ?stall, fun hs => ?nak⟩, fun hs hentry => ⟨?acked, ?unacked⟩⟩
  case disabled | stall | nak =>
    rw [hexec, hs]
    rfl
  case acked =>
    refine (execBusIn_of_valid hf ht hs hentry).trans ?_
    cases e <;> rfl
  case unacked =>
    rw [hexec, hs]
    exact performIn_unacked hentry

/-- Settles O50: such a token addresses nobody, and `fatal` ignores every link operation. -/
theorem tokensToNobodyAreNotAnswered : Obligations.TokensToNobodyAreNotAnswered := by
  refine ⟨fun i s addr endp hf hfilter hi => ?_, fun i s hi hf => linkOp_of_fatal hi hf⟩
  have ht : tokenTarget addr endp s = none := tokenTarget_eq_none hfilter
  obtain ⟨data, rfl⟩ | ⟨tog, data, rfl⟩ | ⟨ack, rfl⟩ := hi
  · exact execBusSetup_of_not_ep0 hf (by simp [ht])
  · exact execBusOut_of_nobody hf ht
  · exact execBusIn_of_nobody hf ht

/-- Settles O51: the reset overwrites what applying the requests wrote. -/
theorem busResetDisablesTheEndpoints : Obligations.BusResetDisablesTheEndpoints :=
  fun _ hf => execBusReset_of_running hf

/-- Settles O52: each clause holds of every effect of a link operation. -/
theorem linkWritesOnlyWhatItMay : Obligations.LinkWritesOnlyWhatItMay := by
  intro i s t hi h
  have he := linkOp_effect hi h
  obtain ⟨hreset, hsusp, hwkup, hkick⟩ := he.conditions
  refine ⟨he.eq_withLinkPart, hreset, hsusp, hwkup, hkick, fun hrx => ?received, fun htx => ?sent, he.memory⟩
  case received => exact he.received.resolve_right fun ⟨h0, h1⟩ => no_flag_rises h0 h1 hrx
  case sent => exact he.sent.resolve_right fun ⟨h0, h1⟩ => no_flag_rises h0 h1 htx

end Sys2Proof.Machine
end

section
/-! The application context (spec/60_exceptions.md R310): what a bridge operation and its micro-steps may write (O23). -/

namespace Sys2Proof.Machine

/-- `s` with the fields that application context may write, and the result its caller sees, as in `t`. -/
def State.withApplicationPart (s t : State) : State :=
  { s with
    txrb := { buf := t.txrb.buf, head := t.txrb.head, tail := s.txrb.tail }
    rxrb := { buf := s.rxrb.buf, head := s.rxrb.head, tail := t.rxrb.tail }
    istat := { s.istat with kick := t.istat.kick }
    appOp := t.appOp
    appResult := t.appResult }

/-- From `s` to `t` only the application's part is written, and a kick stays raised. -/
def ApplicationWrite (s t : State) : Prop :=
  t = s.withApplicationPart t ∧ (s.istat.kick = true → t.istat.kick = true)

section Application
variable {s t : State}

theorem bridgeOp_applicationWrite {i : Instr} (hi : isBridgeOp i = true) (ht : exec i s = .next t) :
    ApplicationWrite s t := by
  cases i
  case brWrite =>
    obtain ⟨-, rfl⟩ := startBridge_eq_next.1 (show execBrWrite _ s = .next t from ht)
    exact ⟨rfl, id⟩
  case brRead =>
    obtain ⟨-, rfl⟩ := startBridge_eq_next.1 (show execBrRead _ s = .next t from ht)
    exact ⟨rfl, id⟩
  case brKick =>
    obtain ⟨-, rfl⟩ := startBridge_eq_next.1 (show execBrKick s = .next t from ht)
    exact ⟨rfl, fun _ => rfl⟩
  case brAvail | brSpace | brOverrun =>
    obtain ⟨r, rfl⟩ := query_eq_next (by simp) ht
    exact ⟨rfl, id⟩
  all_goals cases hi

theorem appMicroStep_applicationWrite (ht : appMicroStep s = .next t) : ApplicationWrite s t := by
  obtain ⟨-, rfl⟩ | ⟨op, -, -, ⟨b, -, rfl⟩ | ⟨-, rfl⟩⟩ | ⟨op, -, -, ⟨-, rfl⟩ | ⟨-, rfl⟩⟩ :=
    appMicroStep_eq_next ht
  all_goals exact ⟨rfl, id⟩

end Application

/-- Settles O23: a bridge operation and a micro-step each write within the application's part. -/
theorem applicationTouchesOnlyItsOwn : Obligations.ApplicationTouchesOnlyItsOwn := by
  rintro s t (⟨i, hi, ht⟩ | ht)
  · exact bridgeOp_applicationWrite hi ht
  · exact appMicroStep_applicationWrite ht

end Sys2Proof.Machine
end

section
/-! Power-on (spec/70_reset_and_hazards.md R331): what `INIT` leaves for each layout, and that nothing runs before it
(O9). -/

namespace Sys2Proof.Machine

/-! ## The two layouts -/

/-- The state inside `INIT` with the entry of endpoint 0 laid out: the one its second `BDT.CONFIGURE` tests. -/
def firstEntryConfigured (s : State) : State := { powerOnFields s with bdtConfigured0 := true }

/-- The test of R132 on a layout parameter: its entry is good, its two regions are apart, and both are apart from the
other endpoint's entry if that is configured. -/
theorem layoutOk_layout_iff {s : State} {e : Ep} {l : EndpointLayout} :
    layoutOk s e l.tx l.rx l.rxMaxSize = true ↔
      entryOk s.params (BdtEntry.ofLayout l)
      ∧ (∀ a, ¬ (inTxRegion (BdtEntry.ofLayout l) a ∧ inRxRegion (BdtEntry.ofLayout l) a))
      ∧ (s.bdtConfigured (otherEp e) = true →
          ∀ a, inTxRegion (BdtEntry.ofLayout l) a ∨ inRxRegion (BdtEntry.ofLayout l) a →
            ¬ inTxRegion (s.bdt (otherEp e)) a ∧ ¬ inRxRegion (s.bdt (otherEp e)) a) := by
  have hcounts : (0 : Half).toNat ≤ 64 ∧ (0 : Half).toNat ≤ l.rxMaxSize.toNat := ⟨Nat.zero_le _, Nat.zero_le _⟩
  refine (layoutOkSaysTheSixConditions s e l.tx l.rx l.rxMaxSize).trans ?_
  simp only [entryOk, BdtEntry.ofLayout, inTxRegion, inRxRegion, hcounts, true_and, and_assoc]

/-- No two of the four regions overlap: those of each entry, and each of the second against both of the first. -/
theorem regionsApart_iff {b0 b1 : BdtEntry} :
    regionsApart b0 b1 ↔ (∀ a, ¬ (inTxRegion b0 a ∧ inRxRegion b0 a)) ∧ (∀ a, ¬ (inTxRegion b1 a ∧ inRxRegion b1 a))
      ∧ ∀ a, inTxRegion b1 a ∨ inRxRegion b1 a → ¬ inTxRegion b0 a ∧ ¬ inRxRegion b0 a := by
  rw [← forall_and, ← forall_and]
  refine forall_congr' fun a => ?_
  tauto

/-- The layout is good exactly when both of `INIT`'s `BDT.CONFIGURE` pass their test. -/
theorem layoutGood_iff {s : State} :
    layoutGood s.params ↔
      layoutOk (powerOnFields s) .ep0 s.params.layout0.tx s.params.layout0.rx s.params.layout0.rxMaxSize = true
      ∧ layoutOk (firstEntryConfigured s) .ep1 s.params.layout1.tx s.params.layout1.rx
          s.params.layout1.rxMaxSize = true := by
  have h0 : (powerOnFields s).bdtConfigured (otherEp .ep0) = false := rfl
  have h1 : (firstEntryConfigured s).bdtConfigured (otherEp .ep1) = true := rfl
  have hb : (firstEntryConfigured s).bdt (otherEp .ep1) = BdtEntry.ofLayout s.params.layout0 := rfl
  have hp : (powerOnFields s).params = s.params ∧ (firstEntryConfigured s).params = s.params := ⟨rfl, rfl⟩
  rw [layoutOk_layout_iff, layoutOk_layout_iff, h0, h1, hb, hp.1, hp.2, layoutGood, regionsApart_iff]
  simp only [Bool.false_eq_true, false_imp_iff, true_imp_iff, and_true]
  tauto

/-! ## `INIT` -/

section Init
variable {s : State}

/-- With the first layout accepted, `INIT` goes on to its second `BDT.CONFIGURE`. -/
theorem execInit_of_first_layoutOk (hl : s.lifecycle = .off)
    (h0 : layoutOk (powerOnFields s) .ep0 s.params.layout0.tx s.params.layout0.rx s.params.layout0.rxMaxSize = true) :
    execInit s =
      let u := configureTable .ep1 s.params.layout1.tx s.params.layout1.rx s.params.layout1.rxMaxSize
        (firstEntryConfigured s)
      if u.fatal then .next (endInit { u with bdtConfigured0 := false }) else .next (endInit u) := by
  refine (if_pos hl).trans ?_
  dsimp only
  rw [configureTable_of_layoutOk h0]
  rfl

/-- With the first layout refused, `INIT` ends without its second `BDT.CONFIGURE`. -/
theorem execInit_of_first_not_layoutOk (hl : s.lifecycle = .off)
    (h0 : layoutOk (powerOnFields s) .ep0 s.params.layout0.tx s.params.layout0.rx s.params.layout0.rxMaxSize = false) :
    execInit s = .next (endInit { powerOnFields s with fatal := true }) := by
  refine (if_pos hl).trans ?_
  dsimp only
  rw [configureTable_of_not_layoutOk h0]
  rfl

theorem execInit_of_layoutGood (hl : s.lifecycle = .off) (hg : layoutGood s.params) :
    execInit s = .next s.poweredOn := by
  obtain ⟨h0, h1⟩ := layoutGood_iff.1 hg
  rw [execInit_of_first_layoutOk hl h0, configureTable_of_layoutOk h1]
  rfl

/-- Whichever of the two layouts is refused, no entry stays configured. -/
theorem execInit_of_not_layoutGood (hl : s.lifecycle = .off) (hg : ¬ layoutGood s.params) :
    execInit s = .next { s.poweredOn with
      fatal := true, bdtConfigured0 := false, bdtConfigured1 := false, cmdResult := .layoutError } := by
  rw [layoutGood_iff, not_and, Bool.not_eq_true] at hg
  cases h0 : layoutOk (powerOnFields s) .ep0 s.params.layout0.tx s.params.layout0.rx s.params.layout0.rxMaxSize
  case false =>
    rw [execInit_of_first_not_layoutOk hl h0]
    rfl
  case true =>
    rw [execInit_of_first_layoutOk hl h0, configureTable_of_not_layoutOk (hg h0)]
    rfl

theorem execInit_of_ne_off (hl : s.lifecycle ≠ .off) : execInit s = .refused .secondInit :=
  if_neg hl

end Init

/-! ## What runs before `INIT` -/

section BeforeInit
variable {s u : State} {i : Instr}

theorem nextOp_of_dispatcher {rest : List Input} (hq : s.inputs = .dispatcher :: rest) :
    nextOp s = .run (.dispatch s.dispatchWord) { s with inputs := rest } := by
  simp [nextOp, hq]

theorem nextOp_of_application {rest : List Input} (hq : s.inputs = .application :: rest) :
    nextOp s = .micro { s with inputs := rest } := by
  simp [nextOp, hq]

theorem lifecycleOf_eq_off_iff : lifecycleOf i = .off ↔ i = .init := by
  cases i <;> simp [lifecycleOf]

theorem gate_init_before (hl : s.lifecycle = .off) : gate .init s = none := by
  simp [gate, hl, lifecycleOf]

theorem gate_before_of_ne_init (hl : s.lifecycle = .off) (hi : i ≠ .init) : gate i s = some .beforeInit := by
  simp [gate, hl, lifecycleOf_eq_off_iff, hi]

theorem step_init_before (hn : nextOp s = .run .init u) (hl : u.lifecycle = .off) : step s = exec .init u := by
  simp [step, hn, gate_init_before hl]

theorem step_before_of_ne_init (hn : nextOp s = .run i u) (hl : u.lifecycle = .off) (hi : i ≠ .init) :
    step s = .refused .beforeInit := by
  simp [step, hn, gate_before_of_ne_init hl hi]

theorem step_micro_before (hn : nextOp s = .micro u) (hl : u.lifecycle = .off) : step s = .refused .beforeInit := by
  simp [step, hn, microGate, hl]

end BeforeInit

/-- Settles O9: `INIT` by the tests of its two `BDT.CONFIGURE`, every other step by the gate. -/
theorem initRunsFirstOnceAndSetsThePowerOnState : Obligations.InitRunsFirstOnceAndSetsThePowerOnState := by
  refine ⟨fun s hl => ⟨execInit_of_layoutGood hl, execInit_of_not_layoutGood hl⟩, fun s => execInit_of_ne_off,
    fun s f bytes rest i hl hq hd => ⟨?init, ?other⟩, fun s rest hl hq => ?turn⟩
  case init =>
    rintro rfl
    exact step_init_before (nextOp_of_request hq hd) hl
  case other => exact step_before_of_ne_init (nextOp_of_request hq hd) hl
  case turn =>
    obtain hq | hq := hq
    · exact step_before_of_ne_init (nextOp_of_dispatcher hq) hl nofun
    · exact step_micro_before (nextOp_of_application hq) hl

end Sys2Proof.Machine
end
